-- ==== Sys2Proof/Word.lean ====
section
/-! DEFINITION. The word types of the Split-64 unit (00_scope.md R5, R6, R7). Every bit-field helper lives under
Machine/, in Operands.lean. -/

namespace Sys2Proof

/-- A byte is 8 bits (R6). -/
abbrev Byte := BitVec 8

/-- A command word, a control register, an address or one half of a register: 32 bits (R5, R23). -/
abbrev Word := BitVec 32

/-- The 64-bit pattern of a general register (R7, R20). -/
abbrev Split64 := BitVec 64

/-- A general-register number, the value of a 4-bit field (R74). -/
abbrev Reg := Fin 16

end Sys2Proof
end

