-- ==== Sys2Proof/Syntax.lean ====
section
/-! DEFINITION. The commands: one constructor per row of the command map (30_encoding.md R80), its arguments the fields
the row lists as used, in the order rd, rs3, rs1, rs2, imm. Nothing here has a meaning; Machine/ gives it. -/

namespace Sys2Proof

/-- The 56 commands of R80. A register field is a `Reg` (R74), `cr` and `wt` are the 8-bit field imm8 (R75), `imm` is
word 1 of format K (R76). -/
inductive Instr where
  | add (rd rs1 rs2 : Reg)                  -- ADD xd, xa, xb (R101)
  | sub (rd rs1 rs2 : Reg)                  -- SUB xd, xa, xb (R102)
  | mul (rd rs1 rs2 : Reg)                  -- MUL xd, xa, xb (R103)
  | div (rd rs3 rs1 rs2 : Reg)              -- DIV xq, xr, xa, xb (R104)
  | shl (rd rs1 : Reg)                      -- SHL xd, xa (R105)
  | shr (rd rs1 : Reg)                      -- SHR xd, xa (R106)
  | cmpu (rd rs1 rs2 : Reg)                 -- CMPU xd, xa, xb (R107)
  | cmps (rd rs1 rs2 : Reg)                 -- CMPS xd, xa, xb (R108)
  | iszero (rd rs1 : Reg)                   -- ISZERO xd, xa (R109)
  | msb (rd rs1 : Reg)                      -- MSB xd, xa (R110)
  | lsb (rd rs1 : Reg)                      -- LSB xd, xa (R111)
  | zze64 (rd rs1 : Reg)                    -- ZZE64 xd, xa (R112)
  | zzd64 (rd rs1 : Reg)                    -- ZZD64 xd, xa (R113)
  | zze32 (rd rs1 : Reg)                    -- ZZE32 xd, xa (R114)
  | zzd32 (rd rs1 : Reg)                    -- ZZD32 xd, xa (R115)
  | mov (rd rs1 : Reg)                      -- MOV xd, xa (R116)
  | ldlo (rd : Reg) (imm : Word)            -- LDLO xd, imm32 (R117)
  | ldhi (rd : Reg) (imm : Word)            -- LDHI xd, imm32 (R118)
  | f64tof32 (rd rs1 : Reg)                 -- F64TOF32 xd, xa (R185)
  | f32tof64 (rd rs1 : Reg)                 -- F32TOF64 xd, xa (R186)
  | mfcr (rd : Reg) (cr : BitVec 8)         -- MFCR xd, cr (R200)
  | mtcr (cr : BitVec 8) (rs1 : Reg)        -- MTCR cr, xa (R201)
  | setblk (rs1 rs2 : Reg)                  -- SETBLK xa, xb (R202)
  | adv (rs1 : Reg)                         -- ADV xa (R203)
  | atend (rd : Reg)                        -- ATEND xd (R204)
  | rvu32 (rd : Reg)                        -- RVU32 xd (R135)
  | rvs32 (rd : Reg)                        -- RVS32 xd (R136)
  | rvz32 (rd : Reg)                        -- RVZ32 xd (R137)
  | rv64 (rd : Reg)                         -- RV64 xd (R138)
  | rvz64 (rd : Reg)                        -- RVZ64 xd (R139)
  | rfu8 (rd : Reg)                         -- RFU8 xd (R161)
  | rfs8 (rd : Reg)                         -- RFS8 xd (R162)
  | rfu16 (rd : Reg)                        -- RFU16 xd (R163)
  | rfs16 (rd : Reg)                        -- RFS16 xd (R164)
  | rfu32 (rd : Reg)                        -- RFU32 xd (R165)
  | rfs32 (rd : Reg)                        -- RFS32 xd (R166)
  | rf64 (rd : Reg)                         -- RF64 xd (R167)
  | rflt (rd : Reg)                         -- RFLT xd (R187)
  | rdbl (rd : Reg)                         -- RDBL xd (R188)
  | wvu32 (rs1 : Reg)                       -- WVU32 xa (R140)
  | wvs32 (rs1 : Reg)                       -- WVS32 xa (R141)
  | wvz32 (rs1 : Reg)                       -- WVZ32 xa (R142)
  | wv64 (rs1 : Reg)                        -- WV64 xa (R143)
  | wvz64 (rs1 : Reg)                       -- WVZ64 xa (R144)
  | wfu8 (rs1 : Reg)                        -- WFU8 xa (R168)
  | wfs8 (rs1 : Reg)                        -- WFS8 xa (R169)
  | wfu16 (rs1 : Reg)                       -- WFU16 xa (R170)
  | wfs16 (rs1 : Reg)                       -- WFS16 xa (R171)
  | wfu32 (rs1 : Reg)                       -- WFU32 xa (R172)
  | wfs32 (rs1 : Reg)                       -- WFS32 xa (R173)
  | wf64 (rs1 : Reg)                        -- WF64 xa (R174)
  | wflt (rs1 : Reg)                        -- WFLT xa (R189)
  | wdbl (rs1 : Reg)                        -- WDBL xa (R190)
  | nextf (rd : Reg)                        -- NEXTF xd (R222)
  | wtchk (wt : BitVec 8)                   -- WTCHK wt (R223)
  | wtag (rs1 : Reg) (wt : BitVec 8)        -- WTAG xa, wt (R224)
deriving DecidableEq, Repr

end Sys2Proof
end

