-- ==== Sys2Proof/WellFormed.lean ====
section
/-! DEFINITION. Which terms of `Instr` are commands of the unit: the legal values of imm8 (30_encoding.md R75). Every
other field is bounded by its type. -/

namespace Sys2Proof

/-- A control-register number names a register: 0 to 8 (R23, R75). -/
def crLegal (cr : BitVec 8) : Bool := decide (cr.toNat ≤ 8)

/-- A wire type is one of the six: 0 to 5 (R75, R220). -/
def wtLegal (wt : BitVec 8) : Bool := decide (wt.toNat ≤ 5)

/-- The command's imm8, where it has one, is legal (R75, R77 item 3). -/
def Instr.wellFormed : Instr → Bool
  | .mfcr _ cr => crLegal cr
  | .mtcr cr _ => crLegal cr
  | .wtchk wt => wtLegal wt
  | .wtag _ wt => wtLegal wt
  | .add .. | .sub .. | .mul .. | .div .. | .shl .. | .shr .. | .cmpu .. | .cmps .. | .iszero .. | .msb .. | .lsb ..
  | .zze64 .. | .zzd64 .. | .zze32 .. | .zzd32 .. | .mov .. | .ldlo .. | .ldhi .. | .f64tof32 .. | .f32tof64 ..
  | .setblk .. | .adv .. | .atend .. | .rvu32 .. | .rvs32 .. | .rvz32 .. | .rv64 .. | .rvz64 .. | .rfu8 .. | .rfs8 ..
  | .rfu16 .. | .rfs16 .. | .rfu32 .. | .rfs32 .. | .rf64 .. | .rflt .. | .rdbl .. | .wvu32 .. | .wvs32 .. | .wvz32 ..
  | .wv64 .. | .wvz64 .. | .wfu8 .. | .wfs8 .. | .wfu16 .. | .wfs16 .. | .wfu32 .. | .wfs32 .. | .wf64 .. | .wflt ..
  | .wdbl .. | .nextf .. => true

end Sys2Proof
end

