-- ==== Sys2Proof/Decode.lean ====
section
/-! DEFINITION. The decoder from command words to commands, total, rejecting by name, and the encoder, both from the
command map of 30_encoding.md (R71 to R80). A command word is a 32-bit value, not bytes (R70), so the decoder takes
words. The rejections `undefinedOp`, `unusedField` and `immRange` are the three items of R77, and Step takes the ILLEGAL
fault for each. -/

namespace Sys2Proof

/-- Why a list of words is no command. -/
inductive Reject where
  /-- R77 item 1: op is not in the map -/
  | undefinedOp
  /-- R77 item 2: a field the map marks unused is not zero -/
  | unusedField
  /-- R77 item 3: imm8 is outside its legal values -/
  | immRange
  /-- R73: word 1 of a two-word command has not arrived -/
  | missingWord
  /-- there is no word -/
  | noWord
deriving DecidableEq, Repr

/-- The fields of word 0 (R71). -/
structure Fields where
  op : BitVec 8
  rd : Reg
  rs1 : Reg
  rs2 : Reg
  rs3 : Reg
  imm8 : BitVec 8
deriving DecidableEq, Repr

/-- The field positions of format R: op 31:24, rd 23:20, rs1 19:16, rs2 15:12, rs3 11:8, imm8 7:0 (R71). -/
def fieldsOf (w : Word) : Fields where
  op := w.extractLsb' 24 8
  rd := (w.extractLsb' 20 4).toFin
  rs1 := (w.extractLsb' 16 4).toFin
  rs2 := (w.extractLsb' 12 4).toFin
  rs3 := (w.extractLsb' 8 4).toFin
  imm8 := w.extractLsb' 0 8

/-- R73: two words when op is 0x11 or 0x12, one word for every other value, undefined ones included. -/
def isTwoWord (w : Word) : Bool := (fieldsOf w).op == 0x11#8 || (fieldsOf w).op == 0x12#8

/-! ## Decoding, one helper for each set of used fields -/

/-- An instruction if the unused fields are zero (R77 item 2). -/
def ifUnused (zero : Bool) (i : Instr) : Except Reject Instr := if zero then .ok i else .error .unusedField

/-- Used: rd rs1 rs2. -/
def Fields.rd_rs1_rs2 (f : Fields) (mk : Reg → Reg → Reg → Instr) : Except Reject Instr :=
  ifUnused (f.rs3 == 0 && f.imm8 == 0#8) (mk f.rd f.rs1 f.rs2)

/-- Used: rd rs3 rs1 rs2 (DIV). -/
def Fields.rd_rs3_rs1_rs2 (f : Fields) (mk : Reg → Reg → Reg → Reg → Instr) : Except Reject Instr :=
  ifUnused (f.imm8 == 0#8) (mk f.rd f.rs3 f.rs1 f.rs2)

/-- Used: rd rs1. -/
def Fields.rd_rs1 (f : Fields) (mk : Reg → Reg → Instr) : Except Reject Instr :=
  ifUnused (f.rs2 == 0 && f.rs3 == 0 && f.imm8 == 0#8) (mk f.rd f.rs1)

/-- Used: rs1 rs2. -/
def Fields.rs1_rs2 (f : Fields) (mk : Reg → Reg → Instr) : Except Reject Instr :=
  ifUnused (f.rd == 0 && f.rs3 == 0 && f.imm8 == 0#8) (mk f.rs1 f.rs2)

/-- Used: rd. -/
def Fields.rdOnly (f : Fields) (mk : Reg → Instr) : Except Reject Instr :=
  ifUnused (f.rs1 == 0 && f.rs2 == 0 && f.rs3 == 0 && f.imm8 == 0#8) (mk f.rd)

/-- Used: rs1. -/
def Fields.rs1Only (f : Fields) (mk : Reg → Instr) : Except Reject Instr :=
  ifUnused (f.rd == 0 && f.rs2 == 0 && f.rs3 == 0 && f.imm8 == 0#8) (mk f.rs1)

/-- Used: rd and imm32 (format K, R72): bits 19:0 of word 0 are zero. -/
def Fields.rdImm32 (f : Fields) (imm : Word) (mk : Reg → Word → Instr) : Except Reject Instr :=
  ifUnused (f.rs1 == 0 && f.rs2 == 0 && f.rs3 == 0 && f.imm8 == 0#8) (mk f.rd imm)

/-- R77 item 3, checked on imm8 after item 2. -/
def ifImm (legal : Bool) (r : Except Reject Instr) : Except Reject Instr :=
  match r with
  | .ok i => if legal then .ok i else .error .immRange
  | .error e => .error e

/-- Used: rd imm8 (MFCR). -/
def Fields.rdCr (f : Fields) (mk : Reg → BitVec 8 → Instr) : Except Reject Instr :=
  ifImm (crLegal f.imm8) (ifUnused (f.rs1 == 0 && f.rs2 == 0 && f.rs3 == 0) (mk f.rd f.imm8))

/-- Used: rs1 imm8 (MTCR). -/
def Fields.crRs1 (f : Fields) (mk : BitVec 8 → Reg → Instr) : Except Reject Instr :=
  ifImm (crLegal f.imm8) (ifUnused (f.rd == 0 && f.rs2 == 0 && f.rs3 == 0) (mk f.imm8 f.rs1))

/-- Used: imm8 (WTCHK). -/
def Fields.wtOnly (f : Fields) (mk : BitVec 8 → Instr) : Except Reject Instr :=
  ifImm (wtLegal f.imm8) (ifUnused (f.rd == 0 && f.rs1 == 0 && f.rs2 == 0 && f.rs3 == 0) (mk f.imm8))

/-- Used: rs1 imm8 (WTAG). -/
def Fields.rs1Wt (f : Fields) (mk : Reg → BitVec 8 → Instr) : Except Reject Instr :=
  ifImm (wtLegal f.imm8) (ifUnused (f.rd == 0 && f.rs2 == 0 && f.rs3 == 0) (mk f.rs1 f.imm8))

/-- The command map (R80): the command that word 0's fields and word 1 (read by format K only) stand for. -/
def decodeFields (f : Fields) (imm : Word) : Except Reject Instr :=
  match f.op.toNat with
  | 0x01 => f.rd_rs1_rs2 .add
  | 0x02 => f.rd_rs1_rs2 .sub
  | 0x03 => f.rd_rs1_rs2 .mul
  | 0x04 => f.rd_rs3_rs1_rs2 .div
  | 0x05 => f.rd_rs1 .shl
  | 0x06 => f.rd_rs1 .shr
  | 0x07 => f.rd_rs1_rs2 .cmpu
  | 0x08 => f.rd_rs1_rs2 .cmps
  | 0x09 => f.rd_rs1 .iszero
  | 0x0A => f.rd_rs1 .msb
  | 0x0B => f.rd_rs1 .lsb
  | 0x0C => f.rd_rs1 .zze64
  | 0x0D => f.rd_rs1 .zzd64
  | 0x0E => f.rd_rs1 .zze32
  | 0x0F => f.rd_rs1 .zzd32
  | 0x10 => f.rd_rs1 .mov
  | 0x11 => f.rdImm32 imm .ldlo
  | 0x12 => f.rdImm32 imm .ldhi
  | 0x13 => f.rd_rs1 .f64tof32
  | 0x14 => f.rd_rs1 .f32tof64
  | 0x20 => f.rdCr .mfcr
  | 0x21 => f.crRs1 .mtcr
  | 0x22 => f.rs1_rs2 .setblk
  | 0x23 => f.rs1Only .adv
  | 0x24 => f.rdOnly .atend
  | 0x30 => f.rdOnly .rvu32
  | 0x31 => f.rdOnly .rvs32
  | 0x32 => f.rdOnly .rvz32
  | 0x33 => f.rdOnly .rv64
  | 0x34 => f.rdOnly .rvz64
  | 0x35 => f.rdOnly .rfu8
  | 0x36 => f.rdOnly .rfs8
  | 0x37 => f.rdOnly .rfu16
  | 0x38 => f.rdOnly .rfs16
  | 0x39 => f.rdOnly .rfu32
  | 0x3A => f.rdOnly .rfs32
  | 0x3B => f.rdOnly .rf64
  | 0x3C => f.rdOnly .rflt
  | 0x3D => f.rdOnly .rdbl
  | 0x40 => f.rs1Only .wvu32
  | 0x41 => f.rs1Only .wvs32
  | 0x42 => f.rs1Only .wvz32
  | 0x43 => f.rs1Only .wv64
  | 0x44 => f.rs1Only .wvz64
  | 0x45 => f.rs1Only .wfu8
  | 0x46 => f.rs1Only .wfs8
  | 0x47 => f.rs1Only .wfu16
  | 0x48 => f.rs1Only .wfs16
  | 0x49 => f.rs1Only .wfu32
  | 0x4A => f.rs1Only .wfs32
  | 0x4B => f.rs1Only .wf64
  | 0x4C => f.rs1Only .wflt
  | 0x4D => f.rs1Only .wdbl
  | 0x50 => f.rdOnly .nextf
  | 0x51 => f.wtOnly .wtchk
  | 0x52 => f.rs1Wt .wtag
  | _ => .error .undefinedOp

/-- One command from the front of the command stream, and the words after it (R70, R73): a two-word op takes the next
word, whatever its value, as word 1. -/
def decode : List Word → Except Reject (Instr × List Word)
  | [] => .error .noWord
  | w0 :: rest =>
    if isTwoWord w0 then
      match rest with
      | [] => .error .missingWord
      | w1 :: rest' => (decodeFields (fieldsOf w0) w1).map (·, rest')
    else (decodeFields (fieldsOf w0) 0#32).map (·, rest)

/-! ## Encoding -/

/-- Word 0 of a command: the fields of R71 side by side, op in the high bits. -/
def encodeR (op : BitVec 8) (rd rs1 rs2 rs3 : Reg) (imm8 : BitVec 8) : Word :=
  op ++ (BitVec.ofFin (w := 4) rd ++ (BitVec.ofFin (w := 4) rs1 ++ (BitVec.ofFin (w := 4) rs2 ++
    (BitVec.ofFin (w := 4) rs3 ++ imm8))))

/-- Word 0 of a command, every unused field zero (R77, R80). -/
def Instr.word0 : Instr → Word
  | .add rd rs1 rs2 => encodeR 0x01#8 rd rs1 rs2 0 0#8
  | .sub rd rs1 rs2 => encodeR 0x02#8 rd rs1 rs2 0 0#8
  | .mul rd rs1 rs2 => encodeR 0x03#8 rd rs1 rs2 0 0#8
  | .div rd rs3 rs1 rs2 => encodeR 0x04#8 rd rs1 rs2 rs3 0#8
  | .shl rd rs1 => encodeR 0x05#8 rd rs1 0 0 0#8
  | .shr rd rs1 => encodeR 0x06#8 rd rs1 0 0 0#8
  | .cmpu rd rs1 rs2 => encodeR 0x07#8 rd rs1 rs2 0 0#8
  | .cmps rd rs1 rs2 => encodeR 0x08#8 rd rs1 rs2 0 0#8
  | .iszero rd rs1 => encodeR 0x09#8 rd rs1 0 0 0#8
  | .msb rd rs1 => encodeR 0x0A#8 rd rs1 0 0 0#8
  | .lsb rd rs1 => encodeR 0x0B#8 rd rs1 0 0 0#8
  | .zze64 rd rs1 => encodeR 0x0C#8 rd rs1 0 0 0#8
  | .zzd64 rd rs1 => encodeR 0x0D#8 rd rs1 0 0 0#8
  | .zze32 rd rs1 => encodeR 0x0E#8 rd rs1 0 0 0#8
  | .zzd32 rd rs1 => encodeR 0x0F#8 rd rs1 0 0 0#8
  | .mov rd rs1 => encodeR 0x10#8 rd rs1 0 0 0#8
  | .ldlo rd _ => encodeR 0x11#8 rd 0 0 0 0#8
  | .ldhi rd _ => encodeR 0x12#8 rd 0 0 0 0#8
  | .f64tof32 rd rs1 => encodeR 0x13#8 rd rs1 0 0 0#8
  | .f32tof64 rd rs1 => encodeR 0x14#8 rd rs1 0 0 0#8
  | .mfcr rd cr => encodeR 0x20#8 rd 0 0 0 cr
  | .mtcr cr rs1 => encodeR 0x21#8 0 rs1 0 0 cr
  | .setblk rs1 rs2 => encodeR 0x22#8 0 rs1 rs2 0 0#8
  | .adv rs1 => encodeR 0x23#8 0 rs1 0 0 0#8
  | .atend rd => encodeR 0x24#8 rd 0 0 0 0#8
  | .rvu32 rd => encodeR 0x30#8 rd 0 0 0 0#8
  | .rvs32 rd => encodeR 0x31#8 rd 0 0 0 0#8
  | .rvz32 rd => encodeR 0x32#8 rd 0 0 0 0#8
  | .rv64 rd => encodeR 0x33#8 rd 0 0 0 0#8
  | .rvz64 rd => encodeR 0x34#8 rd 0 0 0 0#8
  | .rfu8 rd => encodeR 0x35#8 rd 0 0 0 0#8
  | .rfs8 rd => encodeR 0x36#8 rd 0 0 0 0#8
  | .rfu16 rd => encodeR 0x37#8 rd 0 0 0 0#8
  | .rfs16 rd => encodeR 0x38#8 rd 0 0 0 0#8
  | .rfu32 rd => encodeR 0x39#8 rd 0 0 0 0#8
  | .rfs32 rd => encodeR 0x3A#8 rd 0 0 0 0#8
  | .rf64 rd => encodeR 0x3B#8 rd 0 0 0 0#8
  | .rflt rd => encodeR 0x3C#8 rd 0 0 0 0#8
  | .rdbl rd => encodeR 0x3D#8 rd 0 0 0 0#8
  | .wvu32 rs1 => encodeR 0x40#8 0 rs1 0 0 0#8
  | .wvs32 rs1 => encodeR 0x41#8 0 rs1 0 0 0#8
  | .wvz32 rs1 => encodeR 0x42#8 0 rs1 0 0 0#8
  | .wv64 rs1 => encodeR 0x43#8 0 rs1 0 0 0#8
  | .wvz64 rs1 => encodeR 0x44#8 0 rs1 0 0 0#8
  | .wfu8 rs1 => encodeR 0x45#8 0 rs1 0 0 0#8
  | .wfs8 rs1 => encodeR 0x46#8 0 rs1 0 0 0#8
  | .wfu16 rs1 => encodeR 0x47#8 0 rs1 0 0 0#8
  | .wfs16 rs1 => encodeR 0x48#8 0 rs1 0 0 0#8
  | .wfu32 rs1 => encodeR 0x49#8 0 rs1 0 0 0#8
  | .wfs32 rs1 => encodeR 0x4A#8 0 rs1 0 0 0#8
  | .wf64 rs1 => encodeR 0x4B#8 0 rs1 0 0 0#8
  | .wflt rs1 => encodeR 0x4C#8 0 rs1 0 0 0#8
  | .wdbl rs1 => encodeR 0x4D#8 0 rs1 0 0 0#8
  | .nextf rd => encodeR 0x50#8 rd 0 0 0 0#8
  | .wtchk wt => encodeR 0x51#8 0 0 0 0 wt
  | .wtag rs1 wt => encodeR 0x52#8 0 rs1 0 0 wt

/-- Word 1, which only format K has (R72, R76). -/
def Instr.word1 : Instr → List Word
  | .ldlo _ imm => [imm]
  | .ldhi _ imm => [imm]
  | .add .. | .sub .. | .mul .. | .div .. | .shl .. | .shr .. | .cmpu .. | .cmps .. | .iszero .. | .msb ..
  | .lsb .. | .zze64 .. | .zzd64 .. | .zze32 .. | .zzd32 .. | .mov .. | .f64tof32 .. | .f32tof64 .. | .mfcr ..
  | .mtcr .. | .setblk .. | .adv .. | .atend .. | .rvu32 .. | .rvs32 .. | .rvz32 .. | .rv64 .. | .rvz64 ..
  | .rfu8 .. | .rfs8 .. | .rfu16 .. | .rfs16 .. | .rfu32 .. | .rfs32 .. | .rf64 .. | .rflt .. | .rdbl ..
  | .wvu32 .. | .wvs32 .. | .wvz32 .. | .wv64 .. | .wvz64 .. | .wfu8 .. | .wfs8 .. | .wfu16 .. | .wfs16 ..
  | .wfu32 .. | .wfs32 .. | .wf64 .. | .wflt .. | .wdbl .. | .nextf .. | .wtchk .. | .wtag .. => []

/-- The words of a command, in the order the host delivers them (R70). -/
def encode (i : Instr) : List Word := i.word0 :: i.word1

/-- The command's length L in words (R73). -/
def Instr.length (i : Instr) : Nat := (encode i).length

/-- The words of an instruction whose bits, numbered as the opcode table numbers them, are w: word 0 is bits 31:0 and
word 1 bits 63:32; every bit above nbits is 0. Only a two-word op has a word 1 (R73). -/
def tableWords (nbits w : Nat) : List Word :=
  let v := w % 2 ^ nbits
  let w0 := BitVec.ofNat 32 v
  if isTwoWord w0 then [w0, BitVec.ofNat 32 (v / 2 ^ 32)] else [w0]

/-- The command that the decoder reads from an opcode-table word. -/
def decodeTableWord (nbits w : Nat) : Option Instr :=
  match decode (tableWords nbits w) with
  | .ok (i, _) => some i
  | .error _ => none

end Sys2Proof
end

