-- ==== Sys2Proof/Config.lean ====
section
/-! DEFINITION. What an implementation fixes (00_scope.md R5: MEM_BYTES is the unit's only variable). It is plain data
that State carries, so that every statement over all states holds for every legal size. -/

namespace Sys2Proof

/-- The implementation parameter of R5 and decision D6: MEM_BYTES is a power of two from 2^8 to 2^31.
`memLog` is its base-2 logarithm less 8, so that every value is a legal size. -/
structure Config where
  memLog : Fin 24
deriving DecidableEq, Repr

/-- MEM_BYTES (R5, R50). -/
def Config.memBytes (c : Config) : Nat := 2 ^ (8 + c.memLog.val)

/-- MEM_BYTES = 2^16, the size that the examples of the spec use (R5). DESIGN CHOICE, unsafe (log 2): the size of
State.reset; statements quantify over the parameter instead. -/
def Config.exampleSize : Config := ⟨8⟩

/-- What an address that the memory list does not name reads as. DESIGN CHOICE, unsafe (log 1): after power-up each
byte is any value (R38); `State.powerUp` takes any list of bytes, State.reset takes the empty one. -/
def Config.unlistedByte : Byte := 0#8

end Sys2Proof
end

