-- ==== Sys2Proof/Machine/State.lean ====
section
/-! DEFINITION. The state of the unit, as plain data: every register, the latch, MEM, the implementation parameter and the
host's actions not yet taken (10_state.md, 20_memory.md R50); what can stop the model; the state after reset (R38). -/

namespace Sys2Proof.Machine

/-- MEM: the bytes that differ from `Config.unlistedByte`, with their addresses (R50). Canonical form: `Memory.wf`. -/
abbrev Memory := List Host.Cell

/-- The canonical form of MEM: addresses strictly rising, no entry equal to what an unlisted address reads as. -/
abbrev Memory.wf (m : Memory) : Prop :=
  m.Pairwise (fun c d => c.1 < d.1) ∧ ∀ c ∈ m, c.2 ≠ Config.unlistedByte

/-- STATUS, cr 0, field by field (R24). Bits 31:16 are reserved and read 0; the read supplies them. -/
structure Status where
  /-- bit 0: a decode error has occurred since the last SETBLK -/
  derr : Bool
  /-- bit 1: the most recent command that can fail failed (R245) -/
  fail : Bool
  /-- bit 2: a current field is held (R33) -/
  fvalid : Bool
  /-- bit 3: the unit has faulted and is halted (R243) -/
  fault : Bool
  /-- bits 7:4: the first decode error since the last SETBLK (R246) -/
  ecode : BitVec 4
  /-- bits 15:8: the fault code (R241) -/
  fcode : BitVec 8
deriving DecidableEq, Repr

/-- What the host does to the unit, one element each. -/
inductive HostAction where
  /-- a word on the command port (R70) -/
  | word (w : Word)
  /-- a byte written through the host memory port (R60) -/
  | memWrite (addr : Word) (byte : Byte)
  /-- the reset input (R270) -/
  | reset
deriving DecidableEq, Repr

structure State where
  /-- the implementation parameter (R5); no step changes it -/
  cfg : Config
  /-- x0 to x15 (R20) -/
  x : Vector Split64 16
  /-- cr 0 (R24) -/
  status : Status
  /-- cr 1, START (R25) -/
  start : Word
  /-- cr 2, END (R26) -/
  endAddr : Word
  /-- cr 3, POS (R27) -/
  pos : Word
  /-- cr 4, WPOS (R28) -/
  wpos : Word
  /-- cr 5, TAG (R29) -/
  tag : Word
  /-- cr 6, FCMD (R30) -/
  fcmd : Word
  /-- cr 7, CP (R22) -/
  cp : Word
  /-- word 0 of a two-word command whose word 1 has not arrived (R34) -/
  latch : Option Word
  /-- MEM (R50) -/
  mem : Memory
  /-- the host's actions that the unit has not taken yet, oldest first (R70; log 3) -/
  input : List HostAction
deriving DecidableEq, Repr

/-- What stops the model with a fault. The contract faults of R241 are no such stop: taking one is a next state (R242). -/
inductive Fault where
  /-- Raised by `step` when the host's memory port writes an address that MEM does not have (R50, R60: the port writes
  'any MEM byte'). Safe (log 5). -/
  | noSuchByte (addr : Nat)
deriving DecidableEq, Repr

/-- What the model refuses. -/
inductive Refusal where
  /-- Raised by `exec` for a command that has no meaning yet; no arm uses it. Safe. -/
  | notModelled (mnemonic : String)
  /-- Raised by `step` when the host's memory port is used while the two-word latch is full: the port does not operate
  (R60, 93_implementation_defined.md row 12). Safe (log 4). -/
  | portNotIdle
deriving DecidableEq, Repr

/-- STATUS after reset: every field 0 (R24, R38). -/
def Status.zero : Status :=
  { derr := false, fail := false, fvalid := false, fault := false, ecode := 0#4, fcode := 0#8 }

/-- The unit right after power-up with parameter `c`, MEM holding `m` and nothing sent yet (R38, R270): MEM is
unspecified, so the initial bytes are an argument (93_implementation_defined.md row 1). -/
def State.powerUp (c : Config) (m : Memory) : State where
  cfg := c
  x := Vector.replicate 16 0#64
  status := Status.zero
  start := 0#32
  endAddr := 0#32
  pos := 0#32
  wpos := 0#32
  tag := 0#32
  fcmd := 0#32
  cp := 0#32
  latch := none
  mem := m
  input := []

/-- The machine right after reset (R38). The size 2^16 (log 2) and the MEM that lists nothing (log 1) are
DESIGN CHOICES; every other field has the value of R38. -/
def State.reset : State := State.powerUp Config.exampleSize []

end Sys2Proof.Machine
end

