-- ==== Sys2Proof/Machine/Flags.lean ====
section
/-! DEFINITION. STATUS: the word that a read of cr 0 gives, and every way a command writes its fields (10_state.md R24,
60_exceptions.md R241 to R246). -/

namespace Sys2Proof.Machine

/-- The contract faults (R241). -/
inductive FaultCode where
  | illegal | range | tagInvalid | wireType | encOvf | cfg
deriving DecidableEq, Repr

/-- FCODE (R241). -/
def FaultCode.code : FaultCode → BitVec 8
  | .illegal => 1#8
  | .range => 2#8
  | .tagInvalid => 3#8
  | .wireType => 4#8
  | .encOvf => 5#8
  | .cfg => 6#8

/-- The decode errors (R246). -/
inductive DecodeError where
  | pastEnd | varintLong | varint32Bad | badWireType | badFieldNum
deriving DecidableEq, Repr

/-- ECODE (R246). -/
def DecodeError.code : DecodeError → BitVec 4
  | .pastEnd => 1#4
  | .varintLong => 2#4
  | .varint32Bad => 3#4
  | .badWireType => 4#4
  | .badFieldNum => 5#4

/-- STATUS as a 32-bit word: bit 0 DERR, 1 FAIL, 2 FVALID, 3 FAULT, 7:4 ECODE, 15:8 FCODE, 31:16 zero (R24). -/
def Status.word (st : Status) : Word :=
  0#16 ++ (st.fcode ++ (st.ecode ++ (BitVec.ofBool st.fault ++ (BitVec.ofBool st.fvalid ++
    (BitVec.ofBool st.fail ++ BitVec.ofBool st.derr)))))

/-- The STATUS part of `raise Fault(c)`: FAULT and FCODE, no other field (R242). -/
def Status.raiseFault (c : FaultCode) (st : Status) : Status := { st with fault := true, fcode := c.code }

/-- The STATUS part of `raise DecodeError(c)`: DERR, ECODE if it is 0, FAIL (R244). -/
def Status.raiseDecodeError (c : DecodeError) (st : Status) : Status :=
  { st with derr := true, ecode := if st.ecode = 0#4 then c.code else st.ecode, fail := true }

/-- FAIL alone: `succeed` writes 0 (R9), the failure result of DIV writes 1 (R104, R245). -/
def Status.setFail (b : Bool) (st : Status) : Status := { st with fail := b }

/-- FVALID alone (R222). -/
def Status.setFvalid (b : Bool) (st : Status) : Status := { st with fvalid := b }

/-- What SETBLK writes: DERR, ECODE, FVALID and FAIL, all 0 (R202). -/
def Status.newBlock (st : Status) : Status := { st with derr := false, ecode := 0#4, fvalid := false, fail := false }

end Sys2Proof.Machine
end

