-- ==== Sys2Proof/Machine/Operands.lean ====
section
/-! DEFINITION. How a command reads its operands: halves of a register, the unsigned and signed readings, widening and
narrowing, range tests (00_scope.md R6 to R8, 10_state.md R21). -/

namespace Sys2Proof.Machine

/-- `v.lo = v[31:0]` (R7). -/
def lo (v : Split64) : Word := v.extractLsb' 0 32

/-- `v.hi = v[63:32]` (R7). -/
def hi (v : Split64) : Word := v.extractLsb' 32 32

/-- `{lo: l, hi: h}` (R7). -/
def join (l h : Word) : Split64 := h ++ l

/-- `u(v) = v.hi * 2^32 + v.lo` (R7). -/
def u (v : Split64) : Nat := (hi v).toNat * 2 ^ 32 + (lo v).toNat

/-- `s(v)`: `u(v) - 2^64` if bit 63 is 1, else `u(v)` (R7). -/
def sgn (v : Split64) : Int := if v.getLsbD 63 then (u v : Int) - 2 ^ 64 else u v

/-- `split(n)`: the pattern with `u = n mod 2^64`, for any integer n (R7). -/
def split (n : Int) : Split64 := BitVec.ofInt 64 n

/-- `zext_N(p)`: widened with zeros (R7). -/
def zext {n : Nat} (p : BitVec n) : Split64 := p.setWidth 64

/-- `sext_N(p)`: widened by copying bit N-1 (R7). -/
def sext {n : Nat} (p : BitVec n) : Split64 := p.signExtend 64

/-- A condition as the 64-bit integer 1 or 0 (R109 to R111, R204). -/
def bit (b : Bool) : Split64 := zext (BitVec.ofBool b)

/-- `0 <= v < 2^n` for an unsigned value (R131, D35). -/
def fitsUnsigned (n : Nat) (v : Nat) : Bool := decide (v < 2 ^ n)

/-- `-2^(n-1) <= v < 2^(n-1)` for a signed value (R131, D35). -/
def fitsSigned (n : Nat) (v : Int) : Bool := decide (-(2 ^ (n - 1) : Int) ≤ v ∧ v < 2 ^ (n - 1))

/-- `TAG[2:0]`, the wire type of a tag (R29, R220). -/
def tagWireType (t : Word) : BitVec 3 := t.extractLsb' 0 3

/-- `TAG[31:3]`, the field number of a tag (R29, R220). -/
def tagField (t : Word) : BitVec 29 := t.extractLsb' 3 29

end Sys2Proof.Machine
end

