-- ==== Sys2Proof/Machine/Ops.lean ====
section
/-! DEFINITION. The operations that the commands share: registers, control registers, MEM, the command pointer, taking
a contract fault, taking a decode error, leaving both by reset, a decoder read, an encoder write. -/

namespace Sys2Proof.Machine

/-- The identity constant (R31). -/
def idValue : Word := 0x53360007#32

/-- How a meaning ends. Every command ends in a next state (R240). -/
abbrev Out := Host.Outcome State Fault Refusal

/-- MEM_BYTES of this unit (R5, R50). -/
def State.memBytes (s : State) : Nat := s.cfg.memBytes

/-! ## General registers (R20) -/

/-- Read x[r]. No register is hard-wired. -/
def State.reg (s : State) (r : Reg) : Split64 := s.x[r]

/-- x[r] <- v. -/
def State.setReg (s : State) (r : Reg) (v : Split64) : State := { s with x := s.x.set r v }

/-- The command is done: CP <- (CP + n) mod 2^32, n its length (R10, R22). -/
def State.advance (s : State) (n : Nat) : State := { s with cp := s.cp + BitVec.ofNat 32 n }

/-- How a command ends whose only result is x[rd] <- v (R10). -/
def State.result (s : State) (rd : Reg) (v : Split64) : State := (s.setReg rd v).advance 1

/-! ## Control registers (R23) -/

/-- The control register with this number; 9 to 255 name none. -/
def State.readCr (s : State) (cr : BitVec 8) : Option Word :=
  match cr.toNat with
  | 0 => some s.status.word
  | 1 => some s.start
  | 2 => some s.endAddr
  | 3 => some s.pos
  | 4 => some s.wpos
  | 5 => some s.tag
  | 6 => some s.fcmd
  | 7 => some s.cp
  | 8 => some idValue
  | _ => none

/-- The cursor register with this number written; the others are read-only (R201). -/
def State.writeCursor (s : State) (cr : BitVec 8) (v : Word) : Option State :=
  match cr.toNat with
  | 1 => some { s with start := v }
  | 2 => some { s with endAddr := v }
  | 3 => some { s with pos := v }
  | 4 => some { s with wpos := v }
  | _ => none

/-- The cursor invariant of R32: START <= POS <= END <= MEM_BYTES and WPOS <= MEM_BYTES. -/
def State.cursorsOk (s : State) : Bool :=
  decide (s.start.toNat ≤ s.pos.toNat ∧ s.pos.toNat ≤ s.endAddr.toNat ∧ s.endAddr.toNat ≤ s.memBytes ∧
    s.wpos.toNat ≤ s.memBytes)

/-! ## MEM (R50, R58) -/

/-- MEM[a]. -/
def Memory.read : Memory → Nat → Byte
  | [], _ => Config.unlistedByte
  | c :: m, a => if c.1 = a then c.2 else Memory.read m a

/-- MEM[a] <- b, in canonical form. -/
def Memory.write : Memory → Nat → Byte → Memory
  | [], a, b => if b = Config.unlistedByte then [] else [(a, b)]
  | c :: m, a, b =>
    if a < c.1 then (if b = Config.unlistedByte then c :: m else (a, b) :: c :: m)
    else if c.1 = a then (if b = Config.unlistedByte then m else (a, b) :: m)
    else c :: Memory.write m a b

/-- MEM[a+k] <- bs[k], the lowest address first (R53, R58). -/
def Memory.writeBytes (m : Memory) (a : Nat) : List Byte → Memory
  | [] => m
  | b :: bs => Memory.writeBytes (m.write a b) (a + 1) bs

/-- `MemRead(a, n)`: the little-endian sum of MEM[a+k] * 2^(8k) over k < n (R58). -/
def Memory.readLE (m : Memory) (a : Nat) : Nat → Nat
  | 0 => 0
  | n + 1 => (m.read a).toNat + 256 * Memory.readLE m (a + 1) n

/-- The bytes v[7:0], v[15:8], ... of `MemWrite(a, n, v)`, n of them (R58). -/
def leBytes : Nat → Nat → List Byte
  | 0, _ => []
  | n + 1, v => BitVec.ofNat 8 v :: leBytes n (v / 256)

/-- One byte of MEM. -/
def State.byte (s : State) (a : Nat) : Byte := s.mem.read a

/-! ## Taking a contract fault, taking a decode error, and the way out -/

/-- `raise Fault(c)` for a command whose word 0 is w0 (R242): FAULT, FCODE and FCMD are written, nothing else changes
and CP is not advanced. There is no vector, saved pc or mode to change. -/
def State.raiseFault (c : FaultCode) (w0 : Word) (s : State) : State :=
  { s with status := s.status.raiseFault c, fcmd := w0 }

/-- `raise DecodeError(c)` (R244): DERR, ECODE if 0, FAIL; CP advances past the command, one word for every command
that can raise it. -/
def State.raiseDecodeError (c : DecodeError) (s : State) : State :=
  ({ s with status := s.status.raiseDecodeError c }).advance 1

/-- Reset (R270), the only way out of a fault (R243, R250, R271): every register and the latch as R38 says, MEM and the
implementation's parameter kept. What the host has sent since is not part of the unit and stays. -/
def State.resetUnit (s : State) : State := { State.powerUp s.cfg s.mem with input := s.input }

/-! ## Decoder reads (R130) -/

/-- `DecByte(i)`: the byte at POS + i, or PAST_END at or beyond END (R130 item 1). -/
def State.decByte (s : State) (i : Nat) : Except DecodeError Byte :=
  if s.endAddr.toNat ≤ s.pos.toNat + i then .error .pastEnd else .ok (s.byte (s.pos.toNat + i))

/-- `FixRead(n)`: the whole width is checked before anything is read (R160). -/
def State.fixRead (s : State) (n : Nat) : Except DecodeError Nat :=
  if s.endAddr.toNat < s.pos.toNat + n then .error .pastEnd else .ok (s.mem.readLE s.pos.toNat n)

/-- POS <- POS + n, which the caller has checked against END. -/
def State.advancePos (s : State) (n : Nat) : State := { s with pos := s.pos + BitVec.ofNat 32 n }

/-- How a decoder read ends (R130 items 2 and 3): on success x[rd], POS and FAIL are written and CP advances; on a
decode error R244. The result is the value for x[rd] and the number of bytes taken. -/
def State.finishRead (s : State) (rd : Reg) : Except DecodeError (Split64 × Nat) → State
  | .ok (v, n) => (({ s.setReg rd v with status := s.status.setFail false }).advancePos n).advance 1
  | .error e => s.raiseDecodeError e

/-! ## Encoder writes (R131) -/

/-- How an encoder write ends (R53, R131 items 3 to 5): the byte sequence bs goes to WPOS and WPOS moves past it, or
ENC_OVF if it does not fit. No STATUS field is written on success. -/
def State.emit (s : State) (w0 : Word) (bs : List Byte) : State :=
  if s.memBytes < s.wpos.toNat + bs.length then s.raiseFault .encOvf w0
  else ({ s with mem := s.mem.writeBytes s.wpos.toNat bs,
                 wpos := s.wpos + BitVec.ofNat 32 bs.length }).advance 1

/-- An encoder write with its own check first (R131 item 1): the code the check raises if it fails. -/
def State.emitChecked (s : State) (w0 : Word) (ok : Bool) (c : FaultCode) (bs : List Byte) : State :=
  if ok then s.emit w0 bs else s.raiseFault c w0

end Sys2Proof.Machine
end

