-- ==== Sys2Proof/Machine/Cursor.lean ====
section
/-! DEFINITION. Control-register moves and the decoder cursor commands (44_cursor_moves.md). -/

namespace Sys2Proof.Machine

/-- MFCR xd, cr: CP is read before it advances; a number that names no register is ILLEGAL (R200, R75;
DEDUCED: log 10). -/
def execMfcr (rd : Reg) (cr : BitVec 8) (s : State) : Out :=
  match s.readCr cr with
  | some v => .next (s.result rd (zext v))
  | none => .next (s.raiseFault .illegal (Instr.mfcr rd cr).word0)

/-- MTCR cr, xa: ILLEGAL for a number that names no register, then CFG for a read-only register, for hi not 0, and for
a value that breaks the cursor invariant, in this order (R201, R248). END may rise above the END it replaces (DEDUCED against
R225 item 3: log 13). -/
def execMtcr (cr : BitVec 8) (rs1 : Reg) (s : State) : Out :=
  let v := s.reg rs1
  let w0 := (Instr.mtcr cr rs1).word0
  if crLegal cr then
    match s.writeCursor cr (lo v) with
    | none => .next (s.raiseFault .cfg w0)
    | some t => if hi v = 0#32 ∧ t.cursorsOk then .next (t.advance 1) else .next (s.raiseFault .cfg w0)
  else .next (s.raiseFault .illegal w0)

/-- SETBLK xa, xb: CFG if the block does not fit in MEM (R202). -/
def execSetblk (rs1 rs2 : Reg) (s : State) : Out :=
  let a := u (s.reg rs1)
  let n := u (s.reg rs2)
  if s.memBytes < a + n then .next (s.raiseFault .cfg (Instr.setblk rs1 rs2).word0)
  else .next ({ s with
    start := BitVec.ofNat 32 a, pos := BitVec.ofNat 32 a, endAddr := BitVec.ofNat 32 (a + n),
    status := s.status.newBlock, tag := 0#32 }.advance 1)

/-- ADV xa: PAST_END beyond END (R203). -/
def execAdv (rs1 : Reg) (s : State) : Out :=
  let n := u (s.reg rs1)
  if s.endAddr.toNat < s.pos.toNat + n then .next (s.raiseDecodeError .pastEnd)
  else .next (({ s with status := s.status.setFail false }.advancePos n).advance 1)

/-- ATEND xd (R204). -/
def execAtend (rd : Reg) (s : State) : Out := .next (s.result rd (bit (s.pos == s.endAddr)))

end Sys2Proof.Machine
end

