-- ==== Sys2Proof/Machine/Arith.lean ====
section
/-! DEFINITION. Split64 arithmetic, zigzag and register moves (40_split64.md). The functions work on halves as the
pseudocode of R101 to R115 does; what each equals on the whole value is a matter for proofs. -/

namespace Sys2Proof.Machine

/-! ## The functions -/

/-- ADD on halves, with the carry from lo to hi (R101). -/
def add64 (a b : Split64) : Split64 :=
  let t := (lo a).toNat + (lo b).toNat
  let carry := if 2 ^ 32 ≤ t then 1 else 0
  join (BitVec.ofNat 32 t) (BitVec.ofNat 32 ((hi a).toNat + (hi b).toNat + carry))

/-- SUB on halves, with the borrow from lo to hi (R102). -/
def sub64 (a b : Split64) : Split64 :=
  let t : Int := (lo a).toNat - (lo b).toNat
  let borrow : Int := if t < 0 then 1 else 0
  join (BitVec.ofInt 32 t) (BitVec.ofInt 32 ((hi a).toNat - (hi b).toNat - borrow))

/-- MUL: the low 64 bits of u(a) times the 32-bit multiplier m (R103). -/
def mul64 (a : Split64) (m : Word) : Split64 := split ((u a : Int) * m.toNat)

/-- The quotient of DIV, floor(u(a) / d), for d not 0 (R104). -/
def divQuotient (a : Split64) (d : Word) : Nat := u a / d.toNat

/-- The remainder of DIV, u(a) - q * d (R104). -/
def divRemainder (a : Split64) (d : Word) : Nat := u a - divQuotient a d * d.toNat

/-- SHL: lo's top bit moves into hi (R105). -/
def shl64 (a : Split64) : Split64 :=
  join (lo a <<< 1) ((hi a <<< 1) ||| (BitVec.ofBool ((lo a).getLsbD 31)).setWidth 32)

/-- SHR: hi's bottom bit moves into lo, zero enters hi (R106). -/
def shr64 (a : Split64) : Split64 :=
  join ((lo a >>> 1) ||| ((BitVec.ofBool ((hi a).getLsbD 0)).setWidth 32 <<< 31)) (hi a >>> 1)

/-- CMPU: -1, 0 or 1, hi deciding before lo (R107). -/
def cmpu64 (a b : Split64) : Split64 :=
  if (hi a).toNat < (hi b).toNat ∨ (hi a = hi b ∧ (lo a).toNat < (lo b).toNat) then split (-1)
  else if hi a = hi b ∧ lo a = lo b then split 0
  else split 1

/-- CMPS: -1, 0 or 1 by the signed readings (R108). -/
def cmps64 (a b : Split64) : Split64 :=
  if sgn a < sgn b then split (-1) else if sgn a = sgn b then split 0 else split 1

/-- All ones or all zeros (the masks of R112 to R115). -/
def mask32 (b : Bool) : Word := if b then 0xFFFFFFFF#32 else 0#32

/-- The 64-bit zigzag encode on halves, the mask from the original hi's top bit (R112). -/
def zze64 (a : Split64) : Split64 :=
  let m := mask32 ((hi a).getLsbD 31)
  join ((lo a <<< 1) ^^^ m)
    (((hi a <<< 1) ||| (BitVec.ofBool ((lo a).getLsbD 31)).setWidth 32) ^^^ m)

/-- The 64-bit zigzag decode on halves, the mask from the low bit (R113). -/
def zzd64 (z : Split64) : Split64 :=
  let m := mask32 ((lo z).getLsbD 0)
  join (((lo z >>> 1) ||| ((BitVec.ofBool ((hi z).getLsbD 0)).setWidth 32 <<< 31)) ^^^ m) ((hi z >>> 1) ^^^ m)

/-- The 32-bit zigzag encode (R114). -/
def zze32 (p : Word) : Word := (p <<< 1) ^^^ mask32 (p.getLsbD 31)

/-- The 32-bit zigzag decode (R115). -/
def zzd32 (z : Word) : Word := (z >>> 1) ^^^ mask32 (z.getLsbD 0)

/-! ## The commands -/

/-- ADD xd, xa, xb (R101). -/
def execAdd (rd rs1 rs2 : Reg) (s : State) : Out := .next (s.result rd (add64 (s.reg rs1) (s.reg rs2)))

/-- SUB xd, xa, xb (R102). -/
def execSub (rd rs1 rs2 : Reg) (s : State) : Out := .next (s.result rd (sub64 (s.reg rs1) (s.reg rs2)))

/-- MUL xd, xa, xb: the multiplier is x[rs2].lo (R103, D23). -/
def execMul (rd rs1 rs2 : Reg) (s : State) : Out := .next (s.result rd (mul64 (s.reg rs1) (lo (s.reg rs2))))

/-- DIV xq, xr, xa, xb: a zero divisor is the failure result, FAIL alone; else x[rd] gets the quotient and then x[rs3]
the remainder, which wins where they are one register (R104, D23, D24). -/
def execDiv (rd rs3 rs1 rs2 : Reg) (s : State) : Out :=
  let a := s.reg rs1
  let d := lo (s.reg rs2)
  if d = 0#32 then .next ({ s with status := s.status.setFail true }.advance 1)
  else .next ({ (s.setReg rd (split (divQuotient a d))).setReg rs3 (zext (BitVec.ofNat 32 (divRemainder a d))) with
    status := s.status.setFail false }.advance 1)

/-- SHL xd, xa (R105). -/
def execShl (rd rs1 : Reg) (s : State) : Out := .next (s.result rd (shl64 (s.reg rs1)))

/-- SHR xd, xa (R106). -/
def execShr (rd rs1 : Reg) (s : State) : Out := .next (s.result rd (shr64 (s.reg rs1)))

/-- CMPU xd, xa, xb (R107). -/
def execCmpu (rd rs1 rs2 : Reg) (s : State) : Out := .next (s.result rd (cmpu64 (s.reg rs1) (s.reg rs2)))

/-- CMPS xd, xa, xb (R108). -/
def execCmps (rd rs1 rs2 : Reg) (s : State) : Out := .next (s.result rd (cmps64 (s.reg rs1) (s.reg rs2)))

/-- ISZERO xd, xa (R109). -/
def execIszero (rd rs1 : Reg) (s : State) : Out :=
  .next (s.result rd (bit (lo (s.reg rs1) == 0#32 && hi (s.reg rs1) == 0#32)))

/-- MSB xd, xa: bit 63 (R110). -/
def execMsb (rd rs1 : Reg) (s : State) : Out := .next (s.result rd (bit ((hi (s.reg rs1)).getLsbD 31)))

/-- LSB xd, xa: bit 0 (R111). -/
def execLsb (rd rs1 : Reg) (s : State) : Out := .next (s.result rd (bit ((lo (s.reg rs1)).getLsbD 0)))

/-- ZZE64 xd, xa (R112). -/
def execZze64 (rd rs1 : Reg) (s : State) : Out := .next (s.result rd (zze64 (s.reg rs1)))

/-- ZZD64 xd, xa (R113). -/
def execZzd64 (rd rs1 : Reg) (s : State) : Out := .next (s.result rd (zzd64 (s.reg rs1)))

/-- ZZE32 xd, xa: x[rs1].hi is ignored, the result zero-extended (R114, D27). -/
def execZze32 (rd rs1 : Reg) (s : State) : Out := .next (s.result rd (zext (zze32 (lo (s.reg rs1)))))

/-- ZZD32 xd, xa: x[rs1].hi is ignored, the result sign-extended (R115, R21; DEDUCED against D27: log 11). -/
def execZzd32 (rd rs1 : Reg) (s : State) : Out := .next (s.result rd (sext (zzd32 (lo (s.reg rs1)))))

/-- MOV xd, xa (R116). -/
def execMov (rd rs1 : Reg) (s : State) : Out := .next (s.result rd (s.reg rs1))

/-- LDLO xd, imm32: hi is kept, CP advances by 2 (R117). -/
def execLdlo (rd : Reg) (imm : Word) (s : State) : Out :=
  .next ((s.setReg rd (join imm (hi (s.reg rd)))).advance 2)

/-- LDHI xd, imm32: lo is kept, CP advances by 2 (R118). -/
def execLdhi (rd : Reg) (imm : Word) (s : State) : Out :=
  .next ((s.setReg rd (join (lo (s.reg rd)) imm)).advance 2)

end Sys2Proof.Machine
end

