-- ==== Sys2Proof/Machine/Varint.lean ====
section
/-! DEFINITION. The varint codec (41_varint.md): the byte format R132, the two scans R133 and R134, the ten commands.
A scan takes its bytes through a function, which is DecByte (R130) wherever a command runs it. -/

namespace Sys2Proof.Machine

/-! ## The byte format (R132) -/

/-- At most k groups of `VarintBytes(v)`: base-128 digits, the least significant first, 0x80 on all but the last. -/
def varintGroups : Nat → Nat → List Byte
  | 0, _ => []
  | k + 1, v =>
    if v / 128 = 0 then [BitVec.ofNat 8 (v % 128)]
    else (BitVec.ofNat 8 (v % 128) ||| 0x80#8) :: varintGroups k (v / 128)

/-- `VarintBytes(v)` for 0 <= v < 2^64: the shortest form, 1 to 10 bytes (R132). -/
def varintBytes (v : Nat) : List Byte := varintGroups 10 v

/-! ## The 32-bit scan (R133) -/

/-- Bytes 6 to 9 of the sign-extension form: k bytes from index i, each 0xFF. -/
def scanSignBytes (get : Nat → Except DecodeError Byte) : Nat → Nat → Except DecodeError Unit
  | 0, _ => .ok ()
  | k + 1, i =>
    match get i with
    | .error e => .error e
    | .ok b => if b = 0xFF#8 then scanSignBytes get k (i + 1) else .error .varint32Bad

/-- Byte 10 of the sign-extension form. -/
def scanSignLast (get : Nat → Except DecodeError Byte) (x : Word) : Except DecodeError (Word × Nat) :=
  match get 9 with
  | .error e => .error e
  | .ok b =>
    if 0x80 ≤ b.toNat then .error .varintLong
    else if b = 0x01#8 then .ok (x, 10) else .error .varint32Bad

/-- Byte 5, and the sign-extension form that it may begin. -/
def scanFifth (get : Nat → Except DecodeError Byte) (x : Word) : Except DecodeError (Word × Nat) :=
  match get 4 with
  | .error e => .error e
  | .ok b =>
    let x' := x ||| ((b &&& 0x0F#8).setWidth 32 <<< 28)
    if b.toNat < 0x80 then
      if b &&& 0xF0#8 = 0x00#8 then .ok (x', 5) else .error .varint32Bad
    else if b &&& 0xF0#8 = 0xF0#8 then
      match scanSignBytes get 4 5 with
      | .error e => .error e
      | .ok _ => scanSignLast get x'
    else .error .varint32Bad

/-- Bytes 1 to 4: k of them left, the next at index i, x read so far. -/
def scanHead (get : Nat → Except DecodeError Byte) : Nat → Nat → Word → Except DecodeError (Word × Nat)
  | 0, _, x => scanFifth get x
  | k + 1, i, x =>
    match get i with
    | .error e => .error e
    | .ok b =>
      let x' := x ||| ((b &&& 0x7F#8).setWidth 32 <<< (7 * i))
      if b.toNat < 0x80 then .ok (x', i + 1) else scanHead get k (i + 1) x'

/-- `Varint32Scan()` (R133). -/
def varint32Scan (get : Nat → Except DecodeError Byte) : Except DecodeError (Word × Nat) := scanHead get 4 0 0#32

/-! ## The 64-bit scan (R134) -/

/-- The halves after the digit d of byte i: bytes 1 to 4 to lo, byte 5 straddling (4 bits to lo, 3 to hi), bytes 6 to 9
to hi, bit 0 of byte 10 to hi's top bit. -/
def scanDigit (i : Nat) (d : Byte) (l h : Word) : Word × Word :=
  if i ≤ 3 then (l ||| (d.setWidth 32 <<< (7 * i)), h)
  else if i = 4 then (l ||| ((d &&& 0x0F#8).setWidth 32 <<< 28), h ||| (d >>> 4).setWidth 32)
  else if i ≤ 8 then (l, h ||| (d.setWidth 32 <<< (7 * i - 32)))
  else (l, h ||| ((d &&& 0x01#8).setWidth 32 <<< 31))

/-- k bytes left, the next at index i. -/
def scanWide (get : Nat → Except DecodeError Byte) : Nat → Nat → Word → Word → Except DecodeError (Split64 × Nat)
  | 0, _, _, _ => .error .varintLong
  | k + 1, i, l, h =>
    match get i with
    | .error e => .error e
    | .ok b =>
      let p := scanDigit i (b &&& 0x7F#8) l h
      if b.toNat < 0x80 then .ok (join p.1 p.2, i + 1) else scanWide get k (i + 1) p.1 p.2

/-- `Varint64Scan()` (R134). -/
def varint64Scan (get : Nat → Except DecodeError Byte) : Except DecodeError (Split64 × Nat) :=
  scanWide get 10 0 0#32 0#32

/-! ## Varint reads -/

/-- A 32-bit varint read whose result is f of the pattern (R135 to R137). -/
def State.readVarint32 (s : State) (rd : Reg) (f : Word → Split64) : State :=
  s.finishRead rd ((varint32Scan s.decByte).map fun p => (f p.1, p.2))

/-- A 64-bit varint read whose result is f of the value (R138, R139). -/
def State.readVarint64 (s : State) (rd : Reg) (f : Split64 → Split64) : State :=
  s.finishRead rd ((varint64Scan s.decByte).map fun p => (f p.1, p.2))

/-- RVU32 xd (R135). -/
def execRvu32 (rd : Reg) (s : State) : Out := .next (s.readVarint32 rd fun p => zext p)

/-- RVS32 xd (R136). -/
def execRvs32 (rd : Reg) (s : State) : Out := .next (s.readVarint32 rd fun p => sext p)

/-- RVZ32 xd: the scan, then the 32-bit zigzag decode, sign-extended (R137). -/
def execRvz32 (rd : Reg) (s : State) : Out := .next (s.readVarint32 rd fun z => sext (zzd32 z))

/-- RV64 xd (R138). -/
def execRv64 (rd : Reg) (s : State) : Out := .next (s.readVarint64 rd fun v => v)

/-- RVZ64 xd: the scan, then ZZD64 (R139). -/
def execRvz64 (rd : Reg) (s : State) : Out := .next (s.readVarint64 rd zzd64)

/-! ## Varint writes -/

/-- WVU32 xa: RANGE unless u(x) < 2^32 (R140). -/
def execWvu32 (rs1 : Reg) (s : State) : Out :=
  let v := u (s.reg rs1)
  .next (s.emitChecked (Instr.wvu32 rs1).word0 (fitsUnsigned 32 v) .range (varintBytes v))

/-- WVS32 xa: RANGE unless -2^31 <= s(x) < 2^31; a negative value as its 64-bit sign extension (R141, D34). -/
def execWvs32 (rs1 : Reg) (s : State) : Out :=
  let n := sgn (s.reg rs1)
  .next (s.emitChecked (Instr.wvs32 rs1).word0 (fitsSigned 32 n) .range (varintBytes (n % 2 ^ 64).toNat))

/-- WVZ32 xa: RANGE unless -2^31 <= s(x) < 2^31; then the zigzag value (R142). -/
def execWvz32 (rs1 : Reg) (s : State) : Out :=
  let n := sgn (s.reg rs1)
  let z := if 0 ≤ n then 2 * n else -2 * n - 1
  .next (s.emitChecked (Instr.wvz32 rs1).word0 (fitsSigned 32 n) .range (varintBytes z.toNat))

/-- WV64 xa: any register value (R143). -/
def execWv64 (rs1 : Reg) (s : State) : Out :=
  .next (s.emit (Instr.wv64 rs1).word0 (varintBytes (u (s.reg rs1))))

/-- WVZ64 xa: ZZE64, then the varint (R144). -/
def execWvz64 (rs1 : Reg) (s : State) : Out :=
  .next (s.emit (Instr.wvz64 rs1).word0 (varintBytes (u (zze64 (s.reg rs1)))))

end Sys2Proof.Machine
end

