-- ==== Sys2Proof/Machine/FieldTag.lean ====
section
/-! DEFINITION. The field-tag parser and the tag writer (45_field_tag.md). -/

namespace Sys2Proof.Machine

/-- What NEXTF makes of a scanned tag: wire type before field number (R222, R248); no other check
of the tag is made (DEDUCED: log 9). -/
def checkTag : Except DecodeError (Word × Nat) → Except DecodeError (Word × Nat)
  | .error e => .error e
  | .ok (t, n) =>
    if 5 < (tagWireType t).toNat then .error .badWireType
    else if tagField t = 0#29 then .error .badFieldNum
    else .ok (t, n)

/-- NEXTF's result: the field number in lo, the wire type in hi (R222). -/
def tagResult (t : Word) : Split64 := join ((tagField t).setWidth 32) ((tagWireType t).setWidth 32)

/-- NEXTF xd: FVALID is cleared whatever follows; at the end of the block x[rd] and TAG become 0; else the tag is scanned
and checked (R222). -/
def execNextf (rd : Reg) (s : State) : Out :=
  let s0 := { s with status := s.status.setFvalid false }
  if s.pos = s.endAddr then
    .next ({ s0.setReg rd 0#64 with tag := 0#32, status := s0.status.setFail false }.advance 1)
  else
    match checkTag (varint32Scan s.decByte) with
    | .error e => .next (s0.raiseDecodeError e)
    | .ok (t, n) =>
      .next (({ s0.setReg rd (tagResult t) with
        tag := t, status := (s0.status.setFvalid true).setFail false }.advancePos n).advance 1)

/-- WTCHK wt: WIRETYPE unless a current field is held with this wire type; ILLEGAL before that for a wire type above 5
(R223, R75). -/
def execWtchk (wt : BitVec 8) (s : State) : Out :=
  let w0 := (Instr.wtchk wt).word0
  if wtLegal wt then
    if s.status.fvalid = false ∨ (tagWireType s.tag).toNat ≠ wt.toNat then .next (s.raiseFault .wireType w0)
    else .next (s.advance 1)
  else .next (s.raiseFault .illegal w0)

/-- WTAG xa, wt: ILLEGAL for a wire type above 5, then TAG_INVALID unless 1 <= u(x) <= 2^29 - 1, then ENC_OVF
(R224, R75, R248). -/
def execWtag (rs1 : Reg) (wt : BitVec 8) (s : State) : Out :=
  let f := u (s.reg rs1)
  let w0 := (Instr.wtag rs1 wt).word0
  if wtLegal wt then
    .next (s.emitChecked w0 (decide (1 ≤ f ∧ f ≤ 2 ^ 29 - 1)) .tagInvalid (varintBytes (f * 8 + wt.toNat)))
  else .next (s.raiseFault .illegal w0)

end Sys2Proof.Machine
end

