-- ==== Sys2Proof/Machine/Fixed.lean ====
section
/-! DEFINITION. The fixed-width integer codec (42_fixed.md). -/

namespace Sys2Proof.Machine

/-! ## Fixed reads -/

/-- A fixed read of n bytes whose result is f of the integer read (R160). -/
def State.readFixed (s : State) (rd : Reg) (n : Nat) (f : Nat → Split64) : State :=
  s.finishRead rd ((s.fixRead n).map fun v => (f v, n))

/-- RFU8 xd (R161). -/
def execRfu8 (rd : Reg) (s : State) : Out := .next (s.readFixed rd 1 fun v => zext (BitVec.ofNat 8 v))

/-- RFS8 xd (R162). -/
def execRfs8 (rd : Reg) (s : State) : Out := .next (s.readFixed rd 1 fun v => sext (BitVec.ofNat 8 v))

/-- RFU16 xd (R163). -/
def execRfu16 (rd : Reg) (s : State) : Out := .next (s.readFixed rd 2 fun v => zext (BitVec.ofNat 16 v))

/-- RFS16 xd (R164). -/
def execRfs16 (rd : Reg) (s : State) : Out := .next (s.readFixed rd 2 fun v => sext (BitVec.ofNat 16 v))

/-- RFU32 xd (R165). -/
def execRfu32 (rd : Reg) (s : State) : Out := .next (s.readFixed rd 4 fun v => zext (BitVec.ofNat 32 v))

/-- RFS32 xd (R166). -/
def execRfs32 (rd : Reg) (s : State) : Out := .next (s.readFixed rd 4 fun v => sext (BitVec.ofNat 32 v))

/-- The eight bytes at POS as two little-endian words, the low word first (R167, R188). -/
def State.twoWords (s : State) : Split64 :=
  join (BitVec.ofNat 32 (s.mem.readLE s.pos.toNat 4)) (BitVec.ofNat 32 (s.mem.readLE (s.pos.toNat + 4) 4))

/-- RF64 xd (R167). -/
def execRf64 (rd : Reg) (s : State) : Out := .next (s.readFixed rd 8 fun _ => s.twoWords)

/-! ## Fixed writes -/

/-- WFU8 xa (R168). -/
def execWfu8 (rs1 : Reg) (s : State) : Out :=
  let v := u (s.reg rs1)
  .next (s.emitChecked (Instr.wfu8 rs1).word0 (fitsUnsigned 8 v) .range (leBytes 1 v))

/-- WFS8 xa: the two's-complement byte (R169). -/
def execWfs8 (rs1 : Reg) (s : State) : Out :=
  let n := sgn (s.reg rs1)
  .next (s.emitChecked (Instr.wfs8 rs1).word0 (fitsSigned 8 n) .range (leBytes 1 (n % 2 ^ 8).toNat))

/-- WFU16 xa (R170). -/
def execWfu16 (rs1 : Reg) (s : State) : Out :=
  let v := u (s.reg rs1)
  .next (s.emitChecked (Instr.wfu16 rs1).word0 (fitsUnsigned 16 v) .range (leBytes 2 v))

/-- WFS16 xa (R171). -/
def execWfs16 (rs1 : Reg) (s : State) : Out :=
  let n := sgn (s.reg rs1)
  .next (s.emitChecked (Instr.wfs16 rs1).word0 (fitsSigned 16 n) .range (leBytes 2 (n % 2 ^ 16).toNat))

/-- WFU32 xa (R172). -/
def execWfu32 (rs1 : Reg) (s : State) : Out :=
  let v := u (s.reg rs1)
  .next (s.emitChecked (Instr.wfu32 rs1).word0 (fitsUnsigned 32 v) .range (leBytes 4 v))

/-- WFS32 xa (R173). -/
def execWfs32 (rs1 : Reg) (s : State) : Out :=
  let n := sgn (s.reg rs1)
  .next (s.emitChecked (Instr.wfs32 rs1).word0 (fitsSigned 32 n) .range (leBytes 4 (n % 2 ^ 32).toNat))

/-- A 64-bit value as eight bytes, the low word first (R174, R190). -/
def twoWordBytes (v : Split64) : List Byte := leBytes 4 (lo v).toNat ++ leBytes 4 (hi v).toNat

/-- WF64 xa: every pattern is in range (R174). -/
def execWf64 (rs1 : Reg) (s : State) : Out :=
  .next (s.emit (Instr.wf64 rs1).word0 (twoWordBytes (s.reg rs1)))

end Sys2Proof.Machine
end

