-- ==== Sys2Proof/Machine/FloatCodec.lean ====
section
/-! DEFINITION. IEEE-754 bit assembly and disassembly (43_float.md). Magnitudes are exact: a finite binary64 magnitude is
held as the natural number of units of 2^-1074, the smallest binary64 denormal, of which every one is a multiple (R180). -/

namespace Sys2Proof.Machine

/-! ## The layouts (R180) -/

/-- binary64: sign bit 63. -/
def sign64 (d : Split64) : Bool := d.getLsbD 63

/-- binary64: exponent field, bits 62:52. -/
def exp64 (d : Split64) : Nat := (d.extractLsb' 52 11).toNat

/-- binary64: fraction field, bits 51:0. -/
def frac64 (d : Split64) : Nat := (d.extractLsb' 0 52).toNat

/-- binary32: sign bit 31. -/
def sign32 (f : Word) : Bool := f.getLsbD 31

/-- binary32: exponent field, bits 30:23. -/
def exp32 (f : Word) : Nat := (f.extractLsb' 23 8).toNat

/-- binary32: fraction field, bits 22:0. -/
def frac32 (f : Word) : Nat := (f.extractLsb' 0 23).toNat

/-- `isNaN64` (R180). -/
def isNaN64 (d : Split64) : Bool := decide (exp64 d = 0x7FF ∧ frac64 d ≠ 0)

/-- An infinite binary64 (R180). -/
def isInf64 (d : Split64) : Bool := decide (exp64 d = 0x7FF ∧ frac64 d = 0)

/-- `isNaN32` (R180). -/
def isNaN32 (f : Word) : Bool := decide (exp32 f = 0xFF ∧ frac32 f ≠ 0)

/-- The magnitude of a finite binary64 in units of 2^-1074: F for a zero or denormal, (2^52 + F) * 2^(E-1) otherwise
(R180 with b = 1023, w = 52). -/
def mag64 (d : Split64) : Nat :=
  if exp64 d = 0 then frac64 d else (2 ^ 52 + frac64 d) * 2 ^ (exp64 d - 1)

/-- `FLT_MAX` = (2^24 - 1) * 2^104, in units of 2^-1074 (R180). -/
def fltMax : Nat := (2 ^ 24 - 1) * 2 ^ 104 * 2 ^ 1074

/-- The smallest normal binary32 magnitude 2^-126, in units of 2^-1074 (R180). -/
def minNormal32 : Nat := 2 ^ 948

/-- The canonical binary32 NaN (R183). -/
def canonicalNaN32 : Word := 0x7FC00000#32

/-- The canonical binary64 NaN (R183). -/
def canonicalNaN64 : Split64 := 0x7FF8000000000000#64

/-- `RNE(n / d)`: to nearest, ties to even (R181). -/
def rne (n d : Nat) : Nat :=
  let f := n / d
  let r := n % d
  if d < 2 * r ∨ (2 * r = d ∧ f % 2 = 1) then f + 1 else f

/-- A binary32 pattern from its sign and the 31 bits below it. -/
def signed32 (s : Bool) (m : Nat) : Word := BitVec.ofBool s ++ BitVec.ofNat 31 m

/-- A binary64 pattern from its sign and the 63 bits below it. -/
def signed64 (s : Bool) (m : Nat) : Split64 := BitVec.ofBool s ++ BitVec.ofNat 63 m

/-- `Narrow(d)` (R182). With a = mag64 d * 2^-1074: a * 2^149 is mag64 d / 2^925; floor(log2 a) is k - 1074 for
k = log2 of mag64 d, so a * 2^(23-e) is mag64 d / 2^(k-23) and e + 127 is k - 947. -/
def narrow (d : Split64) : Word :=
  if isNaN64 d then canonicalNaN32
  else if exp64 d = 0 ∧ frac64 d = 0 then signed32 (sign64 d) 0
  else if isInf64 d ∨ fltMax < mag64 d then signed32 (sign64 d) 0x7F800000
  else if mag64 d < minNormal32 then signed32 (sign64 d) (rne (mag64 d) (2 ^ 925))
  else
    let k := Nat.log2 (mag64 d)
    let m := rne (mag64 d) (2 ^ (k - 23))
    if m = 2 ^ 24 then signed32 (sign64 d) ((k + 1 - 947) * 2 ^ 23 + (2 ^ 23 - 2 ^ 23))
    else signed32 (sign64 d) ((k - 947) * 2 ^ 23 + (m - 2 ^ 23))

/-- `Widen(f)` (R184). -/
def widen (f : Word) : Split64 :=
  if isNaN32 f then canonicalNaN64
  else if exp32 f = 0xFF then signed64 (sign32 f) (0x7FF * 2 ^ 52)
  else if exp32 f = 0 ∧ frac32 f = 0 then signed64 (sign32 f) 0
  else if exp32 f = 0 then
    let k := Nat.log2 (frac32 f)
    signed64 (sign32 f) ((k + 874) * 2 ^ 52 + (frac32 f - 2 ^ k) * 2 ^ (52 - k))
  else signed64 (sign32 f) ((exp32 f + 896) * 2 ^ 52 + frac32 f * 2 ^ 29)

/-- A binary64 pattern with every NaN made the canonical one (R183, R188, R190). -/
def canonical64 (d : Split64) : Split64 := if isNaN64 d then canonicalNaN64 else d

/-! ## The commands -/

/-- F64TOF32 xd, xa (R185). -/
def execF64tof32 (rd rs1 : Reg) (s : State) : Out := .next (s.result rd (zext (narrow (s.reg rs1))))

/-- F32TOF64 xd, xa: x[rs1].hi is ignored (R186). -/
def execF32tof64 (rd rs1 : Reg) (s : State) : Out := .next (s.result rd (widen (lo (s.reg rs1))))

/-- RFLT xd (R187). -/
def execRflt (rd : Reg) (s : State) : Out := .next (s.readFixed rd 4 fun v => widen (BitVec.ofNat 32 v))

/-- RDBL xd (R188). -/
def execRdbl (rd : Reg) (s : State) : Out := .next (s.readFixed rd 8 fun _ => canonical64 s.twoWords)

/-- WFLT xa: no range fault (R189, D35). -/
def execWflt (rs1 : Reg) (s : State) : Out :=
  .next (s.emit (Instr.wflt rs1).word0 (leBytes 4 (narrow (s.reg rs1)).toNat))

/-- WDBL xa (R190). -/
def execWdbl (rs1 : Reg) (s : State) : Out :=
  .next (s.emit (Instr.wdbl rs1).word0 (twoWordBytes (canonical64 (s.reg rs1))))

end Sys2Proof.Machine
end

