-- ==== Sys2Proof/Machine/Dispatch.lean ====
section
/-! DEFINITION. Which meaning each command has: one arm per constructor of `Instr`. -/

namespace Sys2Proof.Machine

def exec (i : Instr) (s : State) : Host.Outcome State Fault Refusal :=
  match i with
  | .add rd rs1 rs2 => Sys2Proof.Machine.execAdd rd rs1 rs2 s
  | .sub rd rs1 rs2 => Sys2Proof.Machine.execSub rd rs1 rs2 s
  | .mul rd rs1 rs2 => Sys2Proof.Machine.execMul rd rs1 rs2 s
  | .div rd rs3 rs1 rs2 => Sys2Proof.Machine.execDiv rd rs3 rs1 rs2 s
  | .shl rd rs1 => Sys2Proof.Machine.execShl rd rs1 s
  | .shr rd rs1 => Sys2Proof.Machine.execShr rd rs1 s
  | .cmpu rd rs1 rs2 => Sys2Proof.Machine.execCmpu rd rs1 rs2 s
  | .cmps rd rs1 rs2 => Sys2Proof.Machine.execCmps rd rs1 rs2 s
  | .iszero rd rs1 => Sys2Proof.Machine.execIszero rd rs1 s
  | .msb rd rs1 => Sys2Proof.Machine.execMsb rd rs1 s
  | .lsb rd rs1 => Sys2Proof.Machine.execLsb rd rs1 s
  | .zze64 rd rs1 => Sys2Proof.Machine.execZze64 rd rs1 s
  | .zzd64 rd rs1 => Sys2Proof.Machine.execZzd64 rd rs1 s
  | .zze32 rd rs1 => Sys2Proof.Machine.execZze32 rd rs1 s
  | .zzd32 rd rs1 => Sys2Proof.Machine.execZzd32 rd rs1 s
  | .mov rd rs1 => Sys2Proof.Machine.execMov rd rs1 s
  | .ldlo rd imm => Sys2Proof.Machine.execLdlo rd imm s
  | .ldhi rd imm => Sys2Proof.Machine.execLdhi rd imm s
  | .f64tof32 rd rs1 => Sys2Proof.Machine.execF64tof32 rd rs1 s
  | .f32tof64 rd rs1 => Sys2Proof.Machine.execF32tof64 rd rs1 s
  | .mfcr rd cr => Sys2Proof.Machine.execMfcr rd cr s
  | .mtcr cr rs1 => Sys2Proof.Machine.execMtcr cr rs1 s
  | .setblk rs1 rs2 => Sys2Proof.Machine.execSetblk rs1 rs2 s
  | .adv rs1 => Sys2Proof.Machine.execAdv rs1 s
  | .atend rd => Sys2Proof.Machine.execAtend rd s
  | .rvu32 rd => Sys2Proof.Machine.execRvu32 rd s
  | .rvs32 rd => Sys2Proof.Machine.execRvs32 rd s
  | .rvz32 rd => Sys2Proof.Machine.execRvz32 rd s
  | .rv64 rd => Sys2Proof.Machine.execRv64 rd s
  | .rvz64 rd => Sys2Proof.Machine.execRvz64 rd s
  | .rfu8 rd => Sys2Proof.Machine.execRfu8 rd s
  | .rfs8 rd => Sys2Proof.Machine.execRfs8 rd s
  | .rfu16 rd => Sys2Proof.Machine.execRfu16 rd s
  | .rfs16 rd => Sys2Proof.Machine.execRfs16 rd s
  | .rfu32 rd => Sys2Proof.Machine.execRfu32 rd s
  | .rfs32 rd => Sys2Proof.Machine.execRfs32 rd s
  | .rf64 rd => Sys2Proof.Machine.execRf64 rd s
  | .rflt rd => Sys2Proof.Machine.execRflt rd s
  | .rdbl rd => Sys2Proof.Machine.execRdbl rd s
  | .wvu32 rs1 => Sys2Proof.Machine.execWvu32 rs1 s
  | .wvs32 rs1 => Sys2Proof.Machine.execWvs32 rs1 s
  | .wvz32 rs1 => Sys2Proof.Machine.execWvz32 rs1 s
  | .wv64 rs1 => Sys2Proof.Machine.execWv64 rs1 s
  | .wvz64 rs1 => Sys2Proof.Machine.execWvz64 rs1 s
  | .wfu8 rs1 => Sys2Proof.Machine.execWfu8 rs1 s
  | .wfs8 rs1 => Sys2Proof.Machine.execWfs8 rs1 s
  | .wfu16 rs1 => Sys2Proof.Machine.execWfu16 rs1 s
  | .wfs16 rs1 => Sys2Proof.Machine.execWfs16 rs1 s
  | .wfu32 rs1 => Sys2Proof.Machine.execWfu32 rs1 s
  | .wfs32 rs1 => Sys2Proof.Machine.execWfs32 rs1 s
  | .wf64 rs1 => Sys2Proof.Machine.execWf64 rs1 s
  | .wflt rs1 => Sys2Proof.Machine.execWflt rs1 s
  | .wdbl rs1 => Sys2Proof.Machine.execWdbl rs1 s
  | .nextf rd => Sys2Proof.Machine.execNextf rd s
  | .wtchk wt => Sys2Proof.Machine.execWtchk wt s
  | .wtag rs1 wt => Sys2Proof.Machine.execWtag rs1 wt s

end Sys2Proof.Machine
end

