-- ==== Sys2Proof/Machine/Port.lean ====
section
/-! DEFINITION. The unit's ports: what it takes next from the host's actions (command words R70, R73, R275, memory-port
writes R60, reset R270), and the host's reads of MEM and registers (R60, R255). -/

namespace Sys2Proof.Machine

/-- The unit is idle: between two steps no command executes, so the latch decides (R60, R256; DEDUCED: log 4). -/
def State.idle (s : State) : Bool := s.latch.isNone

/-- What the unit takes. -/
inductive Taken where
  /-- nothing has been sent: the unit waits and all state survives (R256, R275) -/
  | nothing
  /-- an action that runs no command; the state after it -/
  | done (t : State)
  /-- the words of one command, word 0 first, and the state that has taken them -/
  | command (w0 : Word) (words : List Word) (t : State)
  /-- the host's memory port names no byte of MEM -/
  | fault (r : Fault)
  /-- the host's memory port is used while it does not operate -/
  | refused (r : Refusal)
deriving Repr

/-- A command word at the port, `rest` behind it: a halted unit discards it (R243, DEDUCED: log 6); a full latch makes it word 1
whatever its value (R275); a two-word op whose word 1 has not arrived goes to the latch (R34); else the command's words
are complete and it runs as one step (R73, R276). -/
def State.takeWord (s : State) (w : Word) (rest : List HostAction) : Taken :=
  if s.status.fault then .done { s with input := rest }
  else
    match s.latch with
    | some w0 => .command w0 [w0, w] { s with latch := none, input := rest }
    | none =>
      if isTwoWord w then
        match rest with
        | .word w1 :: rest' => .command w [w, w1] { s with input := rest' }
        | _ => .done { s with latch := some w, input := rest }
      else .command w [w] { s with input := rest }

/-- A byte written through the host memory port: only while the unit is idle, faulted or not, and only to a byte of MEM
(R60, R50). -/
def State.takeMemWrite (s : State) (a : Word) (b : Byte) (rest : List HostAction) : Taken :=
  if s.idle then
    if a.toNat < s.memBytes then .done { s with mem := s.mem.write a.toNat b, input := rest }
    else .fault (.noSuchByte a.toNat)
  else .refused .portNotIdle

/-- The host's oldest action that the unit has not taken. -/
def State.take (s : State) : Taken :=
  match s.input with
  | [] => .nothing
  | .word w :: rest => s.takeWord w rest
  | .memWrite a b :: rest => s.takeMemWrite a b rest
  | .reset :: rest => .done { s.resetUnit with input := rest }

/-! ## What the host can read, without a side effect -/

/-- A byte of MEM through the memory port, while idle (R60). -/
def State.hostReadByte (s : State) (a : Nat) : Option Byte :=
  if s.idle ∧ a < s.memBytes then some (s.byte a) else none

/-- A general register through the inspection port, while idle (R255). -/
def State.inspectReg (s : State) (r : Reg) : Option Split64 := if s.idle then some (s.reg r) else none

/-- A control register by number through the inspection port, while idle (R255); none for a number that names no control
register (DESIGN CHOICE: log 12). -/
def State.inspectCr (s : State) (cr : BitVec 8) : Option Word := if s.idle then s.readCr cr else none

end Sys2Proof.Machine
end

