-- ==== Sys2Proof/Machine/Step.lean ====
section
/-! DEFINITION. One step: the unit takes the host's oldest action and, where that completes a command, runs it whole
(30_encoding.md R70, 70_reset_and_hazards.md R273, R276). -/

namespace Sys2Proof.Machine

/-- One step. An illegal command takes the ILLEGAL fault before anything else is checked (R77, R248). -/
def step (s : State) : Host.Outcome State Fault Refusal :=
  match s.take with
  | .nothing => .next s
  | .done t => .next t
  | .fault r => .fault r
  | .refused r => .refused r
  | .command w0 words t =>
    match decode words with
    | .ok (i, _) => exec i t
    | .error _ => .next (t.raiseFault .illegal w0)

/-- `s` with the instruction's words as the next that the host delivers: the latch empty, so that word 0 is taken as
word 0 (log 8). -/
def State.withFetchWord (s : State) (nbits w : Nat) : State :=
  { s with latch := none, input := (tableWords nbits w).map HostAction.word ++ s.input }

end Sys2Proof.Machine
end

