-- ==== Sys2Proof/Safety.lean ====
section
/-! DEFINITION. What the claims call a unit that runs, and what holds at every command boundary: the cursor invariant of
10_state.md R32 and what the other rules say of the fields that R32 does not name. Beside them the classes of commands that
the rules speak of. -/

namespace Sys2Proof.Machine

/-- The unit takes the next word as word 0 of a command: not halted (R243), the latch empty (R34). -/
def State.ready (s : State) : Prop := s.status.fault = false ∧ s.latch = none

/-- `s` with word `w` as the host's oldest action and `rest` behind it. -/
def State.sent (s : State) (w : Word) (rest : List HostAction) : State := { s with input := .word w :: rest }

/-- R32 at every command boundary. -/
def State.CursorInv (s : State) : Prop :=
  s.start.toNat ≤ s.pos.toNat ∧ s.pos.toNat ≤ s.endAddr.toNat ∧ s.endAddr.toNat ≤ s.memBytes ∧
    s.wpos.toNat ≤ s.memBytes

/-- MEM is in canonical form and every address it lists is one of MEM's (R50). -/
def State.MemInv (s : State) : Prop := Memory.wf s.mem ∧ ∀ c ∈ s.mem, c.1 < s.memBytes

/-- STATUS, FCMD and the latch: reserved codes are never produced (R241, R246), DERR is 1 exactly when ECODE names an
error (R244), FAULT exactly when FCODE names a fault (R242), FCMD is 0 before a fault (R30), the latch holds word 0 of a
two-word command (R34) and is empty in a halted unit (R243). -/
def State.StatusInv (s : State) : Prop :=
  s.status.ecode.toNat ≤ 5 ∧ s.status.fcode.toNat ≤ 6 ∧
    (s.status.derr = true ↔ s.status.ecode ≠ 0#4) ∧ (s.status.fault = true ↔ s.status.fcode ≠ 0#8) ∧
    (s.status.fault = false → s.fcmd = 0#32) ∧ (∀ w, s.latch = some w → isTwoWord w = true) ∧
    (s.status.fault = true → s.latch = none)

/-- A held field has one of the six wire types and a field number of at least 1 (R33, R220, R222). -/
def State.FieldInv (s : State) : Prop :=
  s.status.fvalid = true → (tagWireType s.tag).toNat ≤ 5 ∧ tagField s.tag ≠ 0#29

/-- Everything that every step keeps. -/
def State.Inv (s : State) : Prop := s.CursorInv ∧ s.MemInv ∧ s.StatusInv ∧ s.FieldInv

end Sys2Proof.Machine

namespace Sys2Proof.Claims

open Sys2Proof

/-! ## Classes of commands -/

/-- The decoder reads but NEXTF (R130). -/
def isRead : Instr → Bool
  | .rvu32 _ | .rvs32 _ | .rvz32 _ | .rv64 _ | .rvz64 _ | .rfu8 _ | .rfs8 _ | .rfu16 _ | .rfs16 _ | .rfu32 _
  | .rfs32 _ | .rf64 _ | .rflt _ | .rdbl _ => true
  | _ => false

/-- The varint reads (R135 to R139). -/
def isVarintRead : Instr → Bool
  | .rvu32 _ | .rvs32 _ | .rvz32 _ | .rv64 _ | .rvz64 _ => true
  | _ => false

/-- What takes bytes of the wire or the cursor past them: the reads, NEXTF, ADV (R244). -/
def canDecodeError : Instr → Bool
  | .nextf _ | .adv _ => true
  | i => isRead i

/-- The commands that write FAIL (R245). -/
def writesFail : Instr → Bool
  | .div _ _ _ _ | .setblk _ _ => true
  | i => canDecodeError i

/-- The encoder writes, WTAG among them (R51). -/
def isWrite : Instr → Bool
  | .wvu32 _ | .wvs32 _ | .wvz32 _ | .wv64 _ | .wvz64 _ | .wfu8 _ | .wfs8 _ | .wfu16 _ | .wfs16 _ | .wfu32 _
  | .wfs32 _ | .wf64 _ | .wflt _ | .wdbl _ | .wtag _ _ => true
  | _ => false

/-- The general registers a command may write. -/
def dests : Instr → List Reg
  | .add rd _ _ | .sub rd _ _ | .mul rd _ _ | .cmpu rd _ _ | .cmps rd _ _ => [rd]
  | .div rd rs3 _ _ => [rd, rs3]
  | .shl rd _ | .shr rd _ | .iszero rd _ | .msb rd _ | .lsb rd _ | .zze64 rd _ | .zzd64 rd _ | .zze32 rd _
  | .zzd32 rd _ | .mov rd _ | .f64tof32 rd _ | .f32tof64 rd _ => [rd]
  | .ldlo rd _ | .ldhi rd _ => [rd]
  | .mfcr rd _ => [rd]
  | .atend rd | .rvu32 rd | .rvs32 rd | .rvz32 rd | .rv64 rd | .rvz64 rd | .rfu8 rd | .rfs8 rd | .rfu16 rd | .rfs16 rd
  | .rfu32 rd | .rfs32 rd | .rf64 rd | .rflt rd | .rdbl rd | .nextf rd => [rd]
  | _ => []

end Sys2Proof.Claims
end

