-- ==== Sys2Proof/Certificates/Slice0/Obligations.lean ====
section
/-! DEFINITION. The statements for the provers, and the words they are said in (namespace Sys2Proof.Claims): the states that
the four outcomes of 60_exceptions.md R240 lead to, how a word runs, and values written from the rules and not from the
model's own functions. -/

namespace Sys2Proof.Claims

open Sys2Proof Sys2Proof.Machine

/-! ## States that a rule describes -/

/-- After `raise Fault(c)` by the command with word 0 `w0` (R242). -/
def contractFault (c : BitVec 8) (w0 : Word) (s : State) : State :=
  { s with status := { s.status with fault := true, fcode := c }, fcmd := w0 }

/-- After `raise DecodeError(c)` (R244), the command one word long. -/
def decodeError (c : BitVec 4) (s : State) : State :=
  { s with
    status := { s.status with derr := true, ecode := if s.status.ecode = 0#4 then c else s.status.ecode, fail := true },
    cp := s.cp + 1#32 }

/-- After a command whose only result is x[rd] <- v, one word long (R10). -/
def wrote (s : State) (rd : Reg) (v : Split64) : State := { s with x := s.x.set rd v, cp := s.cp + 1#32 }

/-- After a decoder read of n bytes whose result is v (R130 item 2). -/
def readDone (s : State) (rd : Reg) (v : Split64) (n : Nat) : State :=
  { s with x := s.x.set rd v, status := { s.status with fail := false }, pos := s.pos + BitVec.ofNat 32 n,
           cp := s.cp + 1#32 }

/-- After an encoder write of the bytes bs (R131 items 4 and 5). -/
def written (s : State) (bs : List Byte) : State :=
  { s with mem := s.mem.writeBytes s.wpos.toNat bs, wpos := s.wpos + BitVec.ofNat 32 bs.length, cp := s.cp + 1#32 }

/-- An encoder write: the fault `code` unless `ok`, then ENC_OVF unless the bytes fit, then the bytes (R131, R53). -/
def writeEnds (s : State) (w0 : Word) (ok : Prop) [Decidable ok] (code : BitVec 8) (bs : List Byte) : State :=
  if ¬ok then contractFault code w0 s
  else if s.memBytes < s.wpos.toNat + bs.length then contractFault 5#8 w0 s
  else written s bs

/-! ## How a word runs -/

/-- In a ready unit, a word with this op runs as the command `mk` makes of its fields if its unused bits are zero and
its imm8 is legal, and takes the ILLEGAL fault otherwise (R77, R80). -/
def RunsAs (op : BitVec 8) (unused : Word) (legal : BitVec 8 → Bool) (mk : Fields → Instr) : Prop :=
  ∀ (s : State) (w : Word) (rest : List HostAction), s.ready → (fieldsOf w).op = op →
    step (s.sent w rest) =
      if w &&& unused = 0#32 ∧ legal (fieldsOf w).imm8 = true then exec (mk (fieldsOf w)) { s with input := rest }
      else .next (contractFault 1#8 w { s with input := rest })

/-- No condition on imm8 beyond its being zero, which `unused` says. -/
def anyImm : BitVec 8 → Bool := fun _ => true

/-- The same for the two-word ops, with word 1 the next word at the port, whatever its value (R72, R73). -/
def RunsAsTwoWords (op : BitVec 8) (mk : Fields → Word → Instr) : Prop :=
  ∀ (s : State) (w w1 : Word) (rest : List HostAction), s.ready → (fieldsOf w).op = op →
    step (s.sent w (.word w1 :: rest)) =
      if w &&& 0x000FFFFF#32 = 0#32 then exec (mk (fieldsOf w) w1) { s with input := rest }
      else .next (contractFault 1#8 w { s with input := rest })

/-- The bits of word 0 that the command map marks unused for an op, none if the op is not in the map (R80). -/
def unusedBits (op : Nat) : Option Word :=
  if op = 0x01 ∨ op = 0x02 ∨ op = 0x03 ∨ op = 0x07 ∨ op = 0x08 then some 0x00000FFF#32
  else if op = 0x04 then some 0x000000FF#32
  else if op = 0x05 ∨ op = 0x06 ∨ (0x09 ≤ op ∧ op ≤ 0x10) ∨ op = 0x13 ∨ op = 0x14 then some 0x0000FFFF#32
  else if op = 0x11 ∨ op = 0x12 ∨ op = 0x24 ∨ (0x30 ≤ op ∧ op ≤ 0x3D) ∨ op = 0x50 then some 0x000FFFFF#32
  else if op = 0x20 then some 0x000FFF00#32
  else if op = 0x21 ∨ op = 0x52 then some 0x00F0FF00#32
  else if op = 0x22 then some 0x00F00FFF#32
  else if op = 0x23 ∨ (0x40 ≤ op ∧ op ≤ 0x4D) then some 0x00F0FFFF#32
  else if op = 0x51 then some 0x00FFFF00#32
  else none

/-- R77: the word is illegal as word 0 of a command. -/
def Illegal (w : Word) : Prop :=
  match unusedBits (w.toNat / 2 ^ 24) with
  | none => True
  | some m =>
    w &&& m ≠ 0#32 ∨ ((w.toNat / 2 ^ 24 = 0x20 ∨ w.toNat / 2 ^ 24 = 0x21) ∧ 8 < w.toNat % 256) ∨
      ((w.toNat / 2 ^ 24 = 0x51 ∨ w.toNat / 2 ^ 24 = 0x52) ∧ 5 < w.toNat % 256)

/-! ## Values, from the rules -/

/-- Bits 8k+7:8k of a register: the byte that a little-endian store puts at offset k (R58). -/
def byteOf (v : Split64) (k : Nat) : Byte := v.extractLsb' (8 * k) 8

/-- The n lowest bytes of a register, lowest first (R54, R58). -/
def lowBytes (v : Split64) (n : Nat) : List Byte := (List.range n).map (byteOf v)

/-- The unsigned zigzag value of an integer: 2n, or -2n-1 for a negative n (R112). -/
def zigzag (n : Int) : Int := if 0 ≤ n then 2 * n else -2 * n - 1

/-- The integer of an unsigned zigzag value: z/2 for an even z, -(z+1)/2 for an odd one (R113). -/
def unzigzag (z : Nat) : Int := if z % 2 = 0 then (z / 2 : Nat) else -((z + 1) / 2 : Nat)

/-- The sum of (b k mod 128) * 128^k over k < n: n base-128 digits, the least significant first (R132). -/
def groups (b : Nat → Byte) : Nat → Nat
  | 0 => 0
  | n + 1 => groups b n + (b n).toNat % 128 * 128 ^ n

/-- The byte sequence that an encoder write emits when it succeeds. -/
def emitted (s : State) : Instr → List Byte
  | .wvu32 r => varintBytes s.x[r].toNat
  | .wvs32 r => varintBytes s.x[r].toNat
  | .wvz32 r => varintBytes (zigzag s.x[r].toInt).toNat
  | .wv64 r => varintBytes s.x[r].toNat
  | .wvz64 r => varintBytes (zigzag s.x[r].toInt).toNat
  | .wfu8 r | .wfs8 r => lowBytes s.x[r] 1
  | .wfu16 r | .wfs16 r => lowBytes s.x[r] 2
  | .wfu32 r | .wfs32 r => lowBytes s.x[r] 4
  | .wf64 r => lowBytes s.x[r] 8
  | .wflt r => lowBytes ((narrow s.x[r]).setWidth 64) 4
  | .wdbl r => lowBytes (canonical64 s.x[r]) 8
  | .wtag r wt => varintBytes (s.x[r].toNat * 8 + wt.toNat)
  | _ => []

/-- The value of a finite binary64 pattern, as R180 gives it: bias 1023, 52 fraction bits. -/
def value64 (d : Split64) : ℚ :=
  (if d.msb then -1 else 1) *
    (if d.toNat / 2 ^ 52 % 2 ^ 11 = 0 then ((d.toNat % 2 ^ 52 : Nat) : ℚ) * 2 ^ (1 - 1023 - 52 : ℤ)
     else ((2 ^ 52 + d.toNat % 2 ^ 52 : Nat) : ℚ) * 2 ^ ((d.toNat / 2 ^ 52 % 2 ^ 11 : Nat) - 1023 - 52 : ℤ))

/-- The value of a finite binary32 pattern, as R180 gives it: bias 127, 23 fraction bits. -/
def value32 (f : Word) : ℚ :=
  (if f.msb then -1 else 1) *
    (if f.toNat / 2 ^ 23 % 2 ^ 8 = 0 then ((f.toNat % 2 ^ 23 : Nat) : ℚ) * 2 ^ (1 - 127 - 23 : ℤ)
     else ((2 ^ 23 + f.toNat % 2 ^ 23 : Nat) : ℚ) * 2 ^ ((f.toNat / 2 ^ 23 % 2 ^ 8 : Nat) - 127 - 23 : ℤ))

/-- A binary64 pattern is finite: its exponent field is not all ones. -/
def Finite64 (d : Split64) : Prop := d.toNat / 2 ^ 52 % 2 ^ 11 ≠ 0x7FF

/-- A binary32 pattern is finite. -/
def Finite32 (f : Word) : Prop := f.toNat / 2 ^ 23 % 2 ^ 8 ≠ 0xFF

/-- A binary64 NaN: exponent field all ones, fraction not 0. -/
def NaN64 (d : Split64) : Prop := d.toNat / 2 ^ 52 % 2 ^ 11 = 0x7FF ∧ d.toNat % 2 ^ 52 ≠ 0

/-- A binary32 NaN. -/
def NaN32 (f : Word) : Prop := f.toNat / 2 ^ 23 % 2 ^ 8 = 0xFF ∧ f.toNat % 2 ^ 23 ≠ 0

/-! ## The four outcomes of R240, for a command that runs -/

/-- success: CP advances by the length, no fault is recorded, FAIL is 0 if the command writes it and as before
otherwise, DERR and ECODE are as before (SETBLK apart, which clears them). -/
def Succeeds (i : Instr) (s t : State) : Prop :=
  t.cp = s.cp + BitVec.ofNat 32 i.length ∧ t.status.fault = s.status.fault ∧ t.status.fcode = s.status.fcode ∧
    t.fcmd = s.fcmd ∧ t.status.fail = (if writesFail i then false else s.status.fail) ∧
    ((∀ a b, i ≠ .setblk a b) → t.status.derr = s.status.derr ∧ t.status.ecode = s.status.ecode)

/-- failure result: DIV with a zero divisor, FAIL alone. -/
def FailsQuietly (i : Instr) (s t : State) : Prop :=
  ∃ rd rs3 rs1 rs2, i = .div rd rs3 rs1 rs2 ∧ s.x[rs2].toNat % 2 ^ 32 = 0 ∧
    t = { s with status := { s.status with fail := true }, cp := s.cp + 1#32 }

/-- decode error: one of the codes 1 to 5 of R246; NEXTF has cleared FVALID first (R222). -/
def DecodeErrs (i : Instr) (s t : State) : Prop :=
  canDecodeError i = true ∧ ∃ c : BitVec 4, 1 ≤ c.toNat ∧ c.toNat ≤ 5 ∧
    t = decodeError c (match i with
      | .nextf _ => { s with status := { s.status with fvalid := false } }
      | _ => s)

/-- fault: one of the codes 1 to 6 of R241. -/
def Faults (i : Instr) (s t : State) : Prop :=
  ∃ c : BitVec 8, 1 ≤ c.toNat ∧ c.toNat ≤ 6 ∧ t = contractFault c i.word0 s

end Sys2Proof.Claims

open Sys2Proof Sys2Proof.Machine Sys2Proof.Claims

/-! ## Encoding and decoding -/

/-- R71 to R80: decoding the words of a well-formed command gives it back, whatever words follow. -/
def Obligations.DecodeOfEncodeIsTheCommand : Prop :=
  ∀ (i : Instr) (rest : List Word), i.wellFormed = true → decode (encode i ++ rest) = .ok (i, rest)

/-- R77, R80: words that decode are the encoding of the command they decode to, with nothing dropped, and the command
is well-formed. -/
def Obligations.DecodedWordsAreTheEncoding : Prop :=
  ∀ (ws rest : List Word) (i : Instr), decode ws = .ok (i, rest) → ws = encode i ++ rest ∧ i.wellFormed = true

/-- R83: the worked encodings, each word decoding to the command beside it. -/
def Obligations.WorkedEncodingsDecode : Prop :=
  decode [0x01123000#32] = .ok (.add 1 2 3, []) ∧
  decode [0x04467500#32] = .ok (.div 4 5 6 7, []) ∧
  decode [0x20200000#32] = .ok (.mfcr 2 0#8, []) ∧
  decode [0x21090002#32] = .ok (.mtcr 2#8 9, []) ∧
  decode [0x11300000#32, 0xDEADBEEF#32] = .ok (.ldlo 3 0xDEADBEEF#32, []) ∧
  decode [0x52010002#32] = .ok (.wtag 1 2#8, []) ∧
  decode [0x50000000#32] = .ok (.nextf 0, [])

/-- R77: in a ready unit a word is run as a command exactly when none of the three conditions holds; otherwise the
ILLEGAL fault is all that happens, the words of the command being taken. -/
def Obligations.IllegalWordsFaultAndOthersRun : Prop :=
  ∀ (s : State) (w w1 : Word) (rest : List HostAction), s.ready →
    (Illegal w →
      step (s.sent w (.word w1 :: rest)) =
        .next (contractFault 1#8 w
          { s with input := if w.toNat / 2 ^ 24 = 0x11 ∨ w.toNat / 2 ^ 24 = 0x12 then rest else .word w1 :: rest })) ∧
    (¬Illegal w → ∃ i : Instr, i.wellFormed = true ∧ i.word0 = w ∧
      i.word1 = (if w.toNat / 2 ^ 24 = 0x11 ∨ w.toNat / 2 ^ 24 = 0x12 then [w1] else []) ∧
      step (s.sent w (.word w1 :: rest)) =
        exec i { s with input := if w.toNat / 2 ^ 24 = 0x11 ∨ w.toNat / 2 ^ 24 = 0x12 then rest else .word w1 :: rest })

/-- R78: every reserved op is the ILLEGAL fault, the all-zero word among them. -/
def Obligations.ReservedOpsAreIllegal : Prop :=
  ∀ (s : State) (w : Word) (rest : List HostAction), s.ready →
    (w.toNat / 2 ^ 24 = 0x00 ∨ (0x15 ≤ w.toNat / 2 ^ 24 ∧ w.toNat / 2 ^ 24 ≤ 0x1F) ∨
      (0x25 ≤ w.toNat / 2 ^ 24 ∧ w.toNat / 2 ^ 24 ≤ 0x2F) ∨ w.toNat / 2 ^ 24 = 0x3E ∨ w.toNat / 2 ^ 24 = 0x3F ∨
      w.toNat / 2 ^ 24 = 0x4E ∨ w.toNat / 2 ^ 24 = 0x4F ∨ 0x53 ≤ w.toNat / 2 ^ 24) →
    step (s.sent w rest) = .next (contractFault 1#8 w { s with input := rest })

/-- R73: a command takes two words when op is 0x11 or 0x12 and one for every other value, undefined ones included; a
two-word op whose word 1 has not arrived is not decoded but held. CP advances by that length unless the command
faults. -/
def Obligations.StepTakesExactlyTheCommandsWords : Prop :=
  ∀ (s : State) (w : Word) (rest : List HostAction), s.ready →
    (w.toNat / 2 ^ 24 ≠ 0x11 ∧ w.toNat / 2 ^ 24 ≠ 0x12 →
      ∃ t, step (s.sent w rest) = .next t ∧ t.input = rest ∧ t.latch = none ∧
        t.cp = if t.status.fault then s.cp else s.cp + 1#32) ∧
    (w.toNat / 2 ^ 24 = 0x11 ∨ w.toNat / 2 ^ 24 = 0x12 →
      (∀ w1, ∃ t, step (s.sent w (.word w1 :: rest)) = .next t ∧ t.input = rest ∧ t.latch = none ∧
        t.cp = if t.status.fault then s.cp else s.cp + 2#32) ∧
      ((∀ w1 rest', rest ≠ .word w1 :: rest') →
        step (s.sent w rest) = .next { s with latch := some w, input := rest }))

/-! ## Steps -/

/-- R70, R73: a step of a ready unit with a well-formed command's words at the port is exec of the command, in the state
that has taken its words. -/
def Obligations.StepRunsTheDecodedCommand : Prop :=
  ∀ (s : State) (i : Instr) (rest : List HostAction), s.ready → i.wellFormed = true →
    step { s with input := (encode i).map HostAction.word ++ rest } = exec i { s with input := rest }

/-- R34, R275, R256: the latch. Word 0 of a two-word command waits in it; while it is full and no word arrives nothing
happens and the host reads nothing; the next word is word 1 whatever it is, and the command then runs, or is ILLEGAL;
reset empties it. Whatever the latch holds, a unit that nothing is sent to keeps all its state. The model's choices: the
idle step (log 3), and that the host's reads give none while the latch is full (log 4). -/
def Obligations.LatchHoldsWordZeroUntilWordOneArrives : Prop :=
  (∀ s : State, s.input = [] → step s = .next s) ∧
  ∀ (s : State) (w0 : Word), s.status.fault = false →
    (s.latch = none → isTwoWord w0 = true → step (s.sent w0 []) = .next { s with latch := some w0, input := [] }) ∧
    (s.latch = some w0 →
      (∀ a, s.hostReadByte a = none) ∧ (∀ r, s.inspectReg r = none) ∧ (∀ cr, s.inspectCr cr = none) ∧
      (∀ (w1 : Word) (rest : List HostAction) (i : Instr), decode [w0, w1] = .ok (i, []) →
        step (s.sent w1 rest) = exec i { s with latch := none, input := rest }) ∧
      (∀ (w1 : Word) (rest : List HostAction) (e : Reject), decode [w0, w1] = .error e →
        step (s.sent w1 rest) = .next (contractFault 1#8 w0 { s with latch := none, input := rest })) ∧
      (∀ rest, ∃ t, step { s with input := .reset :: rest } = .next t ∧ t.latch = none ∧ t.input = rest))

/-- R243, R60, R255: a halted unit takes and discards every word, however many, and CP does not change; the memory port and
the inspection port still work; reset lets it run again. That a discarded word is a step with a next state is the model's
reading of R243 against row 10 of 93_implementation_defined.md (log 6); none for a number that names no control register
is its choice (log 12). -/
def Obligations.HaltedUnitDiscardsWordsUntilReset : Prop :=
  ∀ s : State, s.status.fault = true → s.latch = none →
    (∀ ws : List Word, Sys2Proof.core.run ws.length { s with input := ws.map HostAction.word } =
      .next { s with input := [] }) ∧
    (∀ (a : Word) (b : Byte) (rest : List HostAction), a.toNat < s.memBytes →
      step { s with input := .memWrite a b :: rest } = .next { s with mem := s.mem.write a.toNat b, input := rest }) ∧
    (∀ a : Nat, a < s.memBytes → s.hostReadByte a = some (s.byte a)) ∧
    (∀ r : Reg, s.inspectReg r = some s.x[r]) ∧ (∀ cr, s.inspectCr cr = s.readCr cr) ∧
    (∀ rest, ∃ t : State, step { s with input := .reset :: rest } = .next t ∧ t.ready ∧ t.status.fcode = 0#8)

/-- R270: reset, from any state whatever, gives every register, control register and the latch its value of R38, keeps
MEM and the size, and drops a latched word 0. -/
def Obligations.ResetClearsAllButMemory : Prop :=
  ∀ (s : State) (rest : List HostAction), ∃ t : State,
    step { s with input := .reset :: rest } = .next t ∧ (∀ r : Reg, t.x[r] = 0#64) ∧
      t.status.word = 0#32 ∧ t.start = 0#32 ∧ t.endAddr = 0#32 ∧ t.pos = 0#32 ∧ t.wpos = 0#32 ∧ t.tag = 0#32 ∧
      t.fcmd = 0#32 ∧ t.cp = 0#32 ∧ t.latch = none ∧ (∀ a, t.byte a = s.byte a) ∧ t.memBytes = s.memBytes ∧
      t.ready ∧ t.input = rest

/-- R38: what the unit holds after power-up, for every size and whatever MEM holds; State.reset is one such state. -/
def Obligations.PowerUpValues : Prop :=
  (∀ (c : Config) (m : Memory),
    (∀ r : Reg, (State.powerUp c m).x[r] = 0#64) ∧ (State.powerUp c m).status.word = 0#32 ∧
    (State.powerUp c m).readCr 1#8 = some 0#32 ∧ (State.powerUp c m).readCr 2#8 = some 0#32 ∧
    (State.powerUp c m).readCr 3#8 = some 0#32 ∧ (State.powerUp c m).readCr 4#8 = some 0#32 ∧
    (State.powerUp c m).readCr 5#8 = some 0#32 ∧ (State.powerUp c m).readCr 6#8 = some 0#32 ∧
    (State.powerUp c m).readCr 7#8 = some 0#32 ∧ (State.powerUp c m).readCr 8#8 = some 0x53360007#32 ∧
    (State.powerUp c m).latch = none ∧ ∀ a, (State.powerUp c m).byte a = m.read a) ∧
  ∃ c m, State.reset = State.powerUp c m

/-- R60, R255: the host's ports. Idle is the latch being empty, faulted or not. A memory-port write changes that byte of
MEM and nothing else; reads give what the unit holds and change nothing; while the latch is full neither port works. The
model's choices: a write is then refused and a read gives none (log 4); a write outside MEM faults (log 5); a number that
names no control register gives none (log 12). -/
def Obligations.HostPortsReadAndWriteWhileIdle : Prop :=
  ∀ (s : State) (a : Word) (b : Byte) (rest : List HostAction), Memory.wf s.mem →
    (s.latch = none → a.toNat < s.memBytes →
      ∃ m, step { s with input := .memWrite a b :: rest } = .next { s with mem := m, input := rest } ∧
        m.read a.toNat = b ∧ (∀ k, k ≠ a.toNat → m.read k = s.mem.read k) ∧ Memory.wf m ∧
        s.hostReadByte a.toNat = some (s.byte a.toNat)) ∧
    (s.latch = none → s.memBytes ≤ a.toNat →
      step { s with input := .memWrite a b :: rest } = .fault (.noSuchByte a.toNat)) ∧
    (s.latch = none → (∀ r, s.inspectReg r = some s.x[r]) ∧ (∀ cr, s.inspectCr cr = s.readCr cr)) ∧
    (s.latch ≠ none →
      step { s with input := .memWrite a b :: rest } = .refused .portNotIdle ∧ s.hostReadByte a.toNat = none ∧
        (∀ r, s.inspectReg r = none) ∧ ∀ cr, s.inspectCr cr = none)

/-! ## Invariants -/

/-- Every step keeps the invariant of Safety: cursors, canonical MEM inside its bounds, STATUS codes, latch, field. -/
def Obligations.StepKeepsTheInvariant : Prop :=
  ∀ s t : State, s.Inv → step s = .next t → t.Inv

/-- The invariant holds after power-up for every size and every MEM in canonical form inside its bounds, and at
State.reset. -/
def Obligations.PowerUpMeetsTheInvariant : Prop :=
  (∀ (c : Config) (m : Memory), Memory.wf m → (∀ e ∈ m, e.1 < c.memBytes) → (State.powerUp c m).Inv) ∧ State.reset.Inv

/-- R32: START <= POS <= END <= MEM_BYTES and WPOS <= MEM_BYTES at every command boundary: after power-up and whatever the
host then does; every step keeps it; and MTCR of a cursor and SETBLK fault CFG rather than break it. -/
def Obligations.CursorsStayInOrder : Prop :=
  (∀ s t : State, s.CursorInv → step s = .next t → t.CursorInv) ∧
  (∀ (c : Config) (m : Memory) (acts : List HostAction) (n : Nat) (t : State),
    Sys2Proof.core.run n { State.powerUp c m with input := acts } = .next t → t.CursorInv) ∧
  (∀ (s : State) (i : Instr), s.CursorInv →
    ((∃ cr rs1, i = .mtcr cr rs1 ∧ 1 ≤ cr.toNat ∧ cr.toNat ≤ 4) ∨ (∃ rs1 rs2, i = .setblk rs1 rs2)) →
    ∃ t : State, exec i s = .next t ∧ (t.cp = s.cp + 1#32 ∧ t.CursorInv ∨ t = contractFault 6#8 i.word0 s))

/-! ## Whole-machine rules -/

/-- R240: every command of a unit that is not halted ends in exactly one of the four ways. -/
def Obligations.CommandsEndInExactlyOneOfFourWays : Prop :=
  ∀ (i : Instr) (s : State), s.status.fault = false → ∃ t : State, exec i s = .next t ∧
    (Succeeds i s t ∨ FailsQuietly i s t ∨ DecodeErrs i s t ∨ Faults i s t) ∧
    ¬(Succeeds i s t ∧ FailsQuietly i s t) ∧ ¬(Succeeds i s t ∧ DecodeErrs i s t) ∧ ¬(Succeeds i s t ∧ Faults i s t) ∧
    ¬(FailsQuietly i s t ∧ DecodeErrs i s t) ∧ ¬(FailsQuietly i s t ∧ Faults i s t) ∧
    ¬(DecodeErrs i s t ∧ Faults i s t)

/-- R242: when a command word's step leaves a running unit faulted, FAULT, FCODE and FCMD are all that has changed: the
code is one of 1 to 6, FCMD is word 0 as the host sent it, CP is not advanced, no register, cursor or byte is written. -/
def Obligations.ContractFaultsArePrecise : Prop :=
  ∀ (s t : State) (w : Word) (rest : List HostAction), s.ready → step (s.sent w rest) = .next t →
    t.status.fault = true → ∃ c : BitVec 8, 1 ≤ c.toNat ∧ c.toNat ≤ 6 ∧ t = contractFault c w { s with input := t.input }

/-- R244, R24: DERR and the first error's code stay until SETBLK, whatever commands run and fail. -/
def Obligations.FirstDecodeErrorStaysUntilSetblk : Prop :=
  ∀ (i : Instr) (s t : State), (∀ a b, i ≠ .setblk a b) → exec i s = .next t →
    (s.status.derr = true → t.status.derr = true) ∧ (s.status.ecode ≠ 0#4 → t.status.ecode = s.status.ecode)

/-- R245: FAIL is written by exactly the commands of the list, and by no fault: 1 on a decode error and on DIV's zero
divisor, 0 on success. -/
def Obligations.FailReportsTheLastCommandThatCanFail : Prop :=
  ∀ (i : Instr) (s t : State), s.status.fault = false → exec i s = .next t →
    (writesFail i = false → t.status.fail = s.status.fail) ∧
    (t.status.fault = true → t.status.fail = s.status.fail) ∧
    (writesFail i = true → t.status.fault = false →
      (t.status.fail = true ↔ DecodeErrs i s t ∨ FailsQuietly i s t))

/-- R130 items 4 and 5: a read's result and its bytes do not depend on DERR, ECODE, FAIL, FVALID or TAG. -/
def Obligations.ReadsIgnoreErrorStateAndField : Prop :=
  ∀ (i : Instr) (s : State) (st : Status) (g : Word), isRead i = true →
    ∃ t t' : State, exec i s = .next t ∧ exec i { s with status := st, tag := g } = .next t' ∧
      t'.x = t.x ∧ t'.pos = t.pos ∧ t'.status.fail = t.status.fail ∧ t'.cp = t.cp

/-- R52: a decoder read depends on MEM only at addresses from POS up to END. -/
def Obligations.ReadsSeeOnlyTheDecoderWindow : Prop :=
  ∀ (i : Instr) (s : State) (m : Memory), isRead i = true ∨ (∃ rd, i = .nextf rd) →
    (∀ a, s.pos.toNat ≤ a → a < s.endAddr.toNat → m.read a = s.mem.read a) →
    ∃ t : State, exec i s = .next t ∧ exec i { s with mem := m } = .next { t with mem := m }

/-- R277, R130: a read or NEXTF that moves POS moves it by at most 10 bytes and never past END, one that ends in a decode
error leaves it; and a varint read over ten bytes that all have the continuation bit is a decode error. -/
def Obligations.ReadsTakeAtMostTenBytesInTheWindow : Prop :=
  ∀ (i : Instr) (s : State), isRead i = true ∨ (∃ rd, i = .nextf rd) → s.pos.toNat ≤ s.endAddr.toNat →
    ∃ t : State, exec i s = .next t ∧
      s.pos.toNat ≤ t.pos.toNat ∧ t.pos.toNat ≤ s.pos.toNat + 10 ∧ t.pos.toNat ≤ s.endAddr.toNat ∧
      (t.status.fail = true → t.pos = s.pos) ∧
      (isVarintRead i = true → (∀ k < 10, 0x80 ≤ (s.byte (s.pos.toNat + k)).toNat) → t.status.fail = true ∧ DecodeErrs i s t)

/-! ## Frames, over all commands -/

/-- Every general register but the command's destinations is as before. Where the command enters the fault state (R242), or
writes FAIL and leaves it 1 (a decode error, R244, or the zero divisor of DIV, R104), all of them are. -/
def Obligations.OtherRegistersUnchanged : Prop :=
  ∀ (i : Instr) (s t : State), exec i s = .next t →
    (∀ r : Reg, r ∉ dests i → t.x[r] = s.x[r]) ∧
    (s.status.fault = false → t.status.fault = true → ∀ r : Reg, t.x[r] = s.x[r]) ∧
    (writesFail i = true → t.status.fail = true → ∀ r : Reg, t.x[r] = s.x[r])

/-- Which commands move which control register: START and END only MTCR and SETBLK, POS also the reads, NEXTF and ADV, WPOS
only MTCR and the encoder writes, TAG only SETBLK and NEXTF, FCMD only a fault; the size, the latch and what the host has
sent are no command's. -/
def Obligations.OtherControlRegistersUnchanged : Prop :=
  ∀ (i : Instr) (s t : State), exec i s = .next t →
    ((∀ cr r, i ≠ .mtcr cr r) → (∀ a b, i ≠ .setblk a b) → t.start = s.start ∧ t.endAddr = s.endAddr ∧
      (canDecodeError i = false → t.pos = s.pos)) ∧
    ((∀ cr r, i ≠ .mtcr cr r) → isWrite i = false → t.wpos = s.wpos) ∧
    ((∀ a b, i ≠ .setblk a b) → (∀ rd, i ≠ .nextf rd) → t.tag = s.tag) ∧
    (∀ cr r, i = .mtcr cr r → (cr.toNat ≠ 1 → t.start = s.start) ∧ (cr.toNat ≠ 2 → t.endAddr = s.endAddr) ∧
      (cr.toNat ≠ 3 → t.pos = s.pos) ∧ (cr.toNat ≠ 4 → t.wpos = s.wpos)) ∧
    (t.status.fault = false → t.fcmd = s.fcmd) ∧ t.cfg = s.cfg ∧ t.latch = s.latch ∧ t.input = s.input

/-- Which commands write which STATUS field: FVALID only NEXTF and SETBLK, DERR and ECODE only what can raise a decode error
and SETBLK, FAIL only the list of R245, FAULT and FCODE only a fault. -/
def Obligations.OtherStatusFieldsUnchanged : Prop :=
  ∀ (i : Instr) (s t : State), exec i s = .next t →
    ((∀ a b, i ≠ .setblk a b) → (∀ rd, i ≠ .nextf rd) → t.status.fvalid = s.status.fvalid) ∧
    ((∀ a b, i ≠ .setblk a b) → canDecodeError i = false →
      t.status.derr = s.status.derr ∧ t.status.ecode = s.status.ecode) ∧
    (writesFail i = false → t.status.fail = s.status.fail) ∧
    (¬Faults i s t → t.status.fault = s.status.fault ∧ t.status.fcode = s.status.fcode)

/-- R51, R53, R57: a command that is no encoder write leaves every byte of MEM as it was; an encoder write that succeeds
leaves every byte outside WPOS .. WPOS+n-1 as it was, n being the number of bytes it emits, and puts the k-th of them at
WPOS+k; one that faults writes no byte. -/
def Obligations.MemoryChangesOnlyWhereAnEncoderWrites : Prop :=
  ∀ (i : Instr) (s t : State), Memory.wf s.mem → s.status.fault = false → exec i s = .next t →
    (isWrite i = false → ∀ a, t.byte a = s.byte a) ∧
    (isWrite i = true → t.status.fault = true → ∀ a, t.byte a = s.byte a) ∧
    (isWrite i = true → t.status.fault = false →
      s.wpos.toNat + (emitted s i).length ≤ s.memBytes ∧ t.wpos.toNat = s.wpos.toNat + (emitted s i).length ∧
      (∀ k b, (emitted s i)[k]? = some b → t.byte (s.wpos.toNat + k) = b) ∧
      (∀ a, a < s.wpos.toNat ∨ s.wpos.toNat + (emitted s i).length ≤ a → t.byte a = s.byte a))

/-! ## Split64 arithmetic, zigzag and moves: what each command writes, all else as before -/

/-- R101, R102: ADD and SUB, on halves with carry and borrow, are the sum and difference mod 2^64. -/
def Obligations.AddAndSubWrap : Prop :=
  RunsAs 0x01#8 0x00000FFF#32 anyImm (fun f => .add f.rd f.rs1 f.rs2) ∧
  RunsAs 0x02#8 0x00000FFF#32 anyImm (fun f => .sub f.rd f.rs1 f.rs2) ∧
  ∀ (rd rs1 rs2 : Reg) (s : State),
    exec (.add rd rs1 rs2) s = .next (wrote s rd (s.x[rs1] + s.x[rs2])) ∧
    exec (.sub rd rs1 rs2) s = .next (wrote s rd (s.x[rs1] - s.x[rs2]))

/-- R103: MUL keeps the low 64 bits of the product with x[rs2].lo. -/
def Obligations.MulKeepsTheLow64Bits : Prop :=
  RunsAs 0x03#8 0x00000FFF#32 anyImm (fun f => .mul f.rd f.rs1 f.rs2) ∧
  ∀ (rd rs1 rs2 : Reg) (s : State),
    exec (.mul rd rs1 rs2) s =
      .next (wrote s rd (BitVec.ofNat 64 (s.x[rs1].toNat * (s.x[rs2].toNat % 2 ^ 32))))

/-- R104: DIV by x[rs2].lo; a zero divisor sets FAIL and writes no register; the remainder is written last. -/
def Obligations.DivWritesQuotientThenRemainder : Prop :=
  RunsAs 0x04#8 0x000000FF#32 anyImm (fun f => .div f.rd f.rs3 f.rs1 f.rs2) ∧
  ∀ (rd rs3 rs1 rs2 : Reg) (s : State),
    (s.x[rs2].toNat % 2 ^ 32 = 0 →
      exec (.div rd rs3 rs1 rs2) s =
        .next { s with status := { s.status with fail := true }, cp := s.cp + 1#32 }) ∧
    (s.x[rs2].toNat % 2 ^ 32 ≠ 0 →
      exec (.div rd rs3 rs1 rs2) s =
        .next { s with
          x := (s.x.set rd (BitVec.ofNat 64 (s.x[rs1].toNat / (s.x[rs2].toNat % 2 ^ 32)))).set rs3
            (BitVec.ofNat 64 (s.x[rs1].toNat % (s.x[rs2].toNat % 2 ^ 32))),
          status := { s.status with fail := false }, cp := s.cp + 1#32 })

/-- R105, R106: SHL and SHR by one bit, on halves, are the shifts of the whole value, SHR logical. -/
def Obligations.ShiftsByOneBit : Prop :=
  RunsAs 0x05#8 0x0000FFFF#32 anyImm (fun f => .shl f.rd f.rs1) ∧
  RunsAs 0x06#8 0x0000FFFF#32 anyImm (fun f => .shr f.rd f.rs1) ∧
  ∀ (rd rs1 : Reg) (s : State),
    exec (.shl rd rs1) s = .next (wrote s rd (s.x[rs1] <<< 1)) ∧
    exec (.shr rd rs1) s = .next (wrote s rd (s.x[rs1] >>> 1))

/-- R107, R108: the three-way compares write -1, 0 or 1 by the unsigned and by the signed order. -/
def Obligations.ComparesAreThreeWay : Prop :=
  RunsAs 0x07#8 0x00000FFF#32 anyImm (fun f => .cmpu f.rd f.rs1 f.rs2) ∧
  RunsAs 0x08#8 0x00000FFF#32 anyImm (fun f => .cmps f.rd f.rs1 f.rs2) ∧
  ∀ (rd rs1 rs2 : Reg) (s : State),
    exec (.cmpu rd rs1 rs2) s =
      .next (wrote s rd (if s.x[rs1].toNat < s.x[rs2].toNat then 0xFFFFFFFFFFFFFFFF#64
        else if s.x[rs1] = s.x[rs2] then 0#64 else 1#64)) ∧
    exec (.cmps rd rs1 rs2) s =
      .next (wrote s rd (if s.x[rs1].toInt < s.x[rs2].toInt then 0xFFFFFFFFFFFFFFFF#64
        else if s.x[rs1] = s.x[rs2] then 0#64 else 1#64))

/-- R109, R110, R111: the tests of the whole value write 1 or 0. -/
def Obligations.ZeroMsbAndLsbTests : Prop :=
  RunsAs 0x09#8 0x0000FFFF#32 anyImm (fun f => .iszero f.rd f.rs1) ∧
  RunsAs 0x0A#8 0x0000FFFF#32 anyImm (fun f => .msb f.rd f.rs1) ∧
  RunsAs 0x0B#8 0x0000FFFF#32 anyImm (fun f => .lsb f.rd f.rs1) ∧
  ∀ (rd rs1 : Reg) (s : State),
    exec (.iszero rd rs1) s = .next (wrote s rd (if s.x[rs1] = 0#64 then 1#64 else 0#64)) ∧
    exec (.msb rd rs1) s = .next (wrote s rd (if s.x[rs1].toInt < 0 then 1#64 else 0#64)) ∧
    exec (.lsb rd rs1) s = .next (wrote s rd (if s.x[rs1].toNat % 2 = 1 then 1#64 else 0#64))

/-- R112, R113: the 64-bit zigzag transforms, on halves, are 2n or -2n-1, and its inverse. -/
def Obligations.Zigzag64Values : Prop :=
  RunsAs 0x0C#8 0x0000FFFF#32 anyImm (fun f => .zze64 f.rd f.rs1) ∧
  RunsAs 0x0D#8 0x0000FFFF#32 anyImm (fun f => .zzd64 f.rd f.rs1) ∧
  ∀ (rd rs1 : Reg) (s : State),
    exec (.zze64 rd rs1) s = .next (wrote s rd (BitVec.ofInt 64 (zigzag s.x[rs1].toInt))) ∧
    exec (.zzd64 rd rs1) s = .next (wrote s rd (BitVec.ofInt 64 (unzigzag s.x[rs1].toNat)))

/-- R114, R115: the 32-bit zigzag transforms of x[rs1].lo, the encode zero-extended, the decode sign-extended, which is
the model's reading of R115 and R21 against D27 (log 11). -/
def Obligations.Zigzag32Values : Prop :=
  RunsAs 0x0E#8 0x0000FFFF#32 anyImm (fun f => .zze32 f.rd f.rs1) ∧
  RunsAs 0x0F#8 0x0000FFFF#32 anyImm (fun f => .zzd32 f.rd f.rs1) ∧
  ∀ (rd rs1 : Reg) (s : State),
    exec (.zze32 rd rs1) s =
      .next (wrote s rd (BitVec.ofInt 64 (zigzag (s.x[rs1].setWidth 32).toInt))) ∧
    exec (.zzd32 rd rs1) s =
      .next (wrote s rd (BitVec.ofInt 64 (unzigzag (s.x[rs1].toNat % 2 ^ 32))))

/-- R113: decoding what was encoded, through two commands and whatever the registers are, gives the value back; the
same for the 32-bit pair on the low half, sign-extended (log 11). -/
def Obligations.ZigzagDecodeUndoesEncode : Prop :=
  ∀ (r a b : Reg) (s : State),
    (∃ t u : State, exec (.zze64 a r) s = .next t ∧ exec (.zzd64 b a) t = .next u ∧ u.x[b] = s.x[r]) ∧
    (∃ t u : State, exec (.zzd64 a r) s = .next t ∧ exec (.zze64 b a) t = .next u ∧ u.x[b] = s.x[r]) ∧
    (∃ t u : State, exec (.zze32 a r) s = .next t ∧ exec (.zzd32 b a) t = .next u ∧
      u.x[b] = (s.x[r].setWidth 32).signExtend 64)

/-- R116, R117, R118: MOV copies; LDLO and LDHI replace one half, keep the other, and are two words long. -/
def Obligations.MovesAndHalfLoads : Prop :=
  RunsAs 0x10#8 0x0000FFFF#32 anyImm (fun f => .mov f.rd f.rs1) ∧
  RunsAsTwoWords 0x11#8 (fun f w1 => .ldlo f.rd w1) ∧ RunsAsTwoWords 0x12#8 (fun f w1 => .ldhi f.rd w1) ∧
  ∀ (rd rs1 : Reg) (imm : Word) (s : State),
    exec (.mov rd rs1) s = .next (wrote s rd s.x[rs1]) ∧
    exec (.ldlo rd imm) s =
      .next { s with x := s.x.set rd (BitVec.ofNat 64 (s.x[rd].toNat / 2 ^ 32 * 2 ^ 32 + imm.toNat)),
                     cp := s.cp + 2#32 } ∧
    exec (.ldhi rd imm) s =
      .next { s with x := s.x.set rd (BitVec.ofNat 64 (imm.toNat * 2 ^ 32 + s.x[rd].toNat % 2 ^ 32)),
                     cp := s.cp + 2#32 }

/-! ## Floats -/

/-- R184: widening is exact on every finite binary32, keeps infinities and signs, and makes every NaN the canonical one. -/
def Obligations.WidenIsExact : Prop :=
  ∀ f : Word,
    (Finite32 f → Finite64 (widen f) ∧ value64 (widen f) = value32 f ∧ (widen f).msb = f.msb) ∧
    (f.toNat % 2 ^ 31 = 0x7F800000 → widen f = if f.msb then 0xFFF0000000000000#64 else 0x7FF0000000000000#64) ∧
    (NaN32 f → widen f = 0x7FF8000000000000#64)

/-- R184: narrowing what was widened gives back every pattern that is no NaN. -/
def Obligations.NarrowUndoesWiden : Prop := ∀ f : Word, ¬NaN32 f → narrow (widen f) = f

/-- R182, R183: the NaN, zero and infinity branches: a NaN is 0x7FC00000, a zero keeps its sign, a magnitude strictly above
FLT_MAX or an infinity is the infinity of its sign, and no other pattern narrows to an infinity or a NaN. -/
def Obligations.NarrowBranches : Prop :=
  ∀ d : Split64,
    (NaN64 d → narrow d = 0x7FC00000#32) ∧
    (d.toNat % 2 ^ 63 = 0 → narrow d = if d.msb then 0x80000000#32 else 0#32) ∧
    (d.toNat % 2 ^ 63 = 0x7FF0000000000000 ∨ (Finite64 d ∧ (2 ^ 24 - 1) * 2 ^ 104 < |value64 d|) →
      narrow d = if d.msb then 0xFF800000#32 else 0x7F800000#32) ∧
    (Finite64 d → |value64 d| ≤ (2 ^ 24 - 1) * 2 ^ 104 → Finite32 (narrow d) ∧ (narrow d).msb = d.msb)

/-- R181, R182: a finite double of magnitude at most FLT_MAX narrows to a nearest binary32, and where two are equally near,
to the one whose last fraction bit is 0. -/
def Obligations.NarrowRoundsToNearestEven : Prop :=
  ∀ (d : Split64) (q : Word), Finite64 d → |value64 d| ≤ (2 ^ 24 - 1) * 2 ^ 104 → Finite32 q →
    |value32 (narrow d) - value64 d| ≤ |value32 q - value64 d| ∧
    (|value32 (narrow d) - value64 d| = |value32 q - value64 d| → value32 q ≠ value32 (narrow d) →
      (narrow d).toNat % 2 = 0)

/-- R185, R186: the register conversions write the narrowed pattern zero-extended and the widened x[rs1].lo. -/
def Obligations.FloatRegisterConversions : Prop :=
  RunsAs 0x13#8 0x0000FFFF#32 anyImm (fun f => .f64tof32 f.rd f.rs1) ∧
  RunsAs 0x14#8 0x0000FFFF#32 anyImm (fun f => .f32tof64 f.rd f.rs1) ∧
  ∀ (rd rs1 : Reg) (s : State),
    exec (.f64tof32 rd rs1) s = .next (wrote s rd ((narrow s.x[rs1]).setWidth 64)) ∧
    exec (.f32tof64 rd rs1) s = .next (wrote s rd (widen (s.x[rs1].setWidth 32)))

/-- R187, R188: the float reads: four little-endian bytes widened, eight with a NaN made canonical; PAST_END if they do not
all lie before END. -/
def Obligations.FloatReads : Prop :=
  RunsAs 0x3C#8 0x000FFFFF#32 anyImm (fun f => .rflt f.rd) ∧
  RunsAs 0x3D#8 0x000FFFFF#32 anyImm (fun f => .rdbl f.rd) ∧
  ∀ (rd : Reg) (s : State) (b : Nat → Byte), (∀ k, b k = s.byte (s.pos.toNat + k)) →
    exec (.rflt rd) s =
      .next (if s.pos.toNat + 4 ≤ s.endAddr.toNat then readDone s rd (widen (b 3 ++ (b 2 ++ (b 1 ++ b 0)))) 4
        else decodeError 1#4 s) ∧
    ∀ d : Split64, d = b 7 ++ (b 6 ++ (b 5 ++ (b 4 ++ (b 3 ++ (b 2 ++ (b 1 ++ b 0)))))) →
      (s.endAddr.toNat < s.pos.toNat + 8 → exec (.rdbl rd) s = .next (decodeError 1#4 s)) ∧
      (s.pos.toNat + 8 ≤ s.endAddr.toNat → NaN64 d →
        exec (.rdbl rd) s = .next (readDone s rd 0x7FF8000000000000#64 8)) ∧
      (s.pos.toNat + 8 ≤ s.endAddr.toNat → ¬NaN64 d → exec (.rdbl rd) s = .next (readDone s rd d 8))

/-- R189, R190: the float writes: the narrowed pattern in four little-endian bytes, the double in eight with a NaN made
canonical; no range fault, ENC_OVF if they do not fit. -/
def Obligations.FloatWrites : Prop :=
  RunsAs 0x4C#8 0x00F0FFFF#32 anyImm (fun f => .wflt f.rs1) ∧
  RunsAs 0x4D#8 0x00F0FFFF#32 anyImm (fun f => .wdbl f.rs1) ∧
  ∀ (r : Reg) (s : State),
    exec (.wflt r) s =
      .next (writeEnds s (Instr.wflt r).word0 True 0#8 (lowBytes ((narrow s.x[r]).setWidth 64) 4)) ∧
    (¬NaN64 s.x[r] → exec (.wdbl r) s = .next (writeEnds s (Instr.wdbl r).word0 True 0#8 (lowBytes s.x[r] 8))) ∧
    (NaN64 s.x[r] → exec (.wdbl r) s =
      .next (writeEnds s (Instr.wdbl r).word0 True 0#8 (lowBytes 0x7FF8000000000000#64 8)))

/-! ## Control registers and the cursor -/

/-- R200, R24: MFCR of each control register; STATUS is its fields at their bits, CP this command's own index. -/
def Obligations.MfcrReadsEveryControlRegister : Prop :=
  RunsAs 0x20#8 0x000FFF00#32 (fun v => decide (v.toNat ≤ 8)) (fun f => .mfcr f.rd f.imm8) ∧
  ∀ (rd : Reg) (s : State),
    exec (.mfcr rd 0#8) s = .next (wrote s rd (BitVec.ofNat 64
      (s.status.derr.toNat + 2 * s.status.fail.toNat + 4 * s.status.fvalid.toNat + 8 * s.status.fault.toNat +
        16 * s.status.ecode.toNat + 256 * s.status.fcode.toNat))) ∧
    exec (.mfcr rd 1#8) s = .next (wrote s rd (s.start.setWidth 64)) ∧
    exec (.mfcr rd 2#8) s = .next (wrote s rd (s.endAddr.setWidth 64)) ∧
    exec (.mfcr rd 3#8) s = .next (wrote s rd (s.pos.setWidth 64)) ∧
    exec (.mfcr rd 4#8) s = .next (wrote s rd (s.wpos.setWidth 64)) ∧
    exec (.mfcr rd 5#8) s = .next (wrote s rd (s.tag.setWidth 64)) ∧
    exec (.mfcr rd 6#8) s = .next (wrote s rd (s.fcmd.setWidth 64)) ∧
    exec (.mfcr rd 7#8) s = .next (wrote s rd (s.cp.setWidth 64)) ∧
    exec (.mfcr rd 8#8) s = .next (wrote s rd 0x53360007#64)

/-- R201: MTCR writes the cursor named if the value is a 32-bit one that keeps the invariant; every other case is CFG, a
read-only register whatever x[rs1] holds. That END may rise above the END it replaces is the model's reading of R201 against
R225 item 3 (log 13). -/
def Obligations.MtcrWritesACursorOrFaultsCfg : Prop :=
  RunsAs 0x21#8 0x00F0FF00#32 (fun v => decide (v.toNat ≤ 8)) (fun f => .mtcr f.imm8 f.rs1) ∧
  ∀ (r : Reg) (s : State) (v : Word), v = s.x[r].setWidth 32 →
    (s.x[r].toNat < 2 ^ 32 →
      ({ s with start := v }.CursorInv → exec (.mtcr 1#8 r) s = .next { s with start := v, cp := s.cp + 1#32 }) ∧
      ({ s with endAddr := v }.CursorInv → exec (.mtcr 2#8 r) s = .next { s with endAddr := v, cp := s.cp + 1#32 }) ∧
      ({ s with pos := v }.CursorInv → exec (.mtcr 3#8 r) s = .next { s with pos := v, cp := s.cp + 1#32 }) ∧
      ({ s with wpos := v }.CursorInv → exec (.mtcr 4#8 r) s = .next { s with wpos := v, cp := s.cp + 1#32 })) ∧
    (2 ^ 32 ≤ s.x[r].toNat ∨ ¬{ s with start := v }.CursorInv →
      exec (.mtcr 1#8 r) s = .next (contractFault 6#8 (Instr.mtcr 1#8 r).word0 s)) ∧
    (2 ^ 32 ≤ s.x[r].toNat ∨ ¬{ s with endAddr := v }.CursorInv →
      exec (.mtcr 2#8 r) s = .next (contractFault 6#8 (Instr.mtcr 2#8 r).word0 s)) ∧
    (2 ^ 32 ≤ s.x[r].toNat ∨ ¬{ s with pos := v }.CursorInv →
      exec (.mtcr 3#8 r) s = .next (contractFault 6#8 (Instr.mtcr 3#8 r).word0 s)) ∧
    (2 ^ 32 ≤ s.x[r].toNat ∨ ¬{ s with wpos := v }.CursorInv →
      exec (.mtcr 4#8 r) s = .next (contractFault 6#8 (Instr.mtcr 4#8 r).word0 s)) ∧
    (∀ cr : BitVec 8, cr.toNat = 0 ∨ (5 ≤ cr.toNat ∧ cr.toNat ≤ 8) →
      exec (.mtcr cr r) s = .next (contractFault 6#8 (Instr.mtcr cr r).word0 s))

/-- R202: SETBLK sets START, POS and END and clears DERR, ECODE, FVALID, FAIL and TAG; a block that does not fit in MEM, in
unbounded arithmetic, is CFG. -/
def Obligations.SetblkStartsABlockOrFaultsCfg : Prop :=
  RunsAs 0x22#8 0x00F00FFF#32 anyImm (fun f => .setblk f.rs1 f.rs2) ∧
  ∀ (a n : Reg) (s : State),
    (s.x[a].toNat + s.x[n].toNat ≤ s.memBytes →
      exec (.setblk a n) s = .next { s with
        start := s.x[a].setWidth 32, pos := s.x[a].setWidth 32, endAddr := (s.x[a] + s.x[n]).setWidth 32,
        status := { s.status with derr := false, ecode := 0#4, fvalid := false, fail := false },
        tag := 0#32, cp := s.cp + 1#32 }) ∧
    (s.memBytes < s.x[a].toNat + s.x[n].toNat →
      exec (.setblk a n) s = .next (contractFault 6#8 (Instr.setblk a n).word0 s))

/-- R203, R204: ADV moves POS by n up to END and no further; ATEND writes whether POS is END. -/
def Obligations.AdvMovesUpToEndAndAtendTests : Prop :=
  RunsAs 0x23#8 0x00F0FFFF#32 anyImm (fun f => .adv f.rs1) ∧
  RunsAs 0x24#8 0x000FFFFF#32 anyImm (fun f => .atend f.rd) ∧
  ∀ (r : Reg) (s : State),
    (s.pos.toNat + s.x[r].toNat ≤ s.endAddr.toNat →
      exec (.adv r) s = .next { s with pos := BitVec.ofNat 32 (s.pos.toNat + s.x[r].toNat),
                                       status := { s.status with fail := false }, cp := s.cp + 1#32 }) ∧
    (s.endAddr.toNat < s.pos.toNat + s.x[r].toNat → exec (.adv r) s = .next (decodeError 1#4 s)) ∧
    exec (.atend r) s = .next (wrote s r (if s.pos.toNat = s.endAddr.toNat then 1#64 else 0#64))

/-! ## Varints -/

/-- R132: the bytes of v: as many as the least k >= 1 with v < 2^(7k), 1 to 10; byte k holds digit k, and the
continuation bit on all but the last. -/
def Obligations.VarintBytesAreTheShortestForm : Prop :=
  ∀ v : Nat, v < 2 ^ 64 →
    1 ≤ (varintBytes v).length ∧ (varintBytes v).length ≤ 10 ∧ v < 2 ^ (7 * (varintBytes v).length) ∧
    (∀ k, 1 ≤ k → v < 2 ^ (7 * k) → (varintBytes v).length ≤ k) ∧
    ∀ k, k < (varintBytes v).length → (varintBytes v)[k]? =
      some (BitVec.ofNat 8 (v / 128 ^ k % 128 + if k + 1 < (varintBytes v).length then 128 else 0))

/-- R133: the 32-bit scan of the bytes b at POS, `avail` of them before END: at most four bytes; the fifth, which must be below
16 if it ends the varint; the ten-byte sign-extension form; the errors, each decided by the first byte that breaks a
condition; PAST_END where the block ends first. -/
def Obligations.Varint32ScanByBytes : Prop :=
  ∀ (s : State) (b : Nat → Byte) (avail : Nat), (∀ k, b k = s.byte (s.pos.toNat + k)) →
    s.endAddr.toNat = s.pos.toNat + avail →
    (∀ n, 1 ≤ n → n ≤ 4 → n ≤ avail → (∀ k, k + 1 < n → 0x80 ≤ (b k).toNat) → (b (n - 1)).toNat < 0x80 →
      varint32Scan s.decByte = .ok (BitVec.ofNat 32 (groups b n), n)) ∧
    (avail ≤ 4 → (∀ k < avail, 0x80 ≤ (b k).toNat) → varint32Scan s.decByte = .error .pastEnd) ∧
    (5 ≤ avail → (∀ k < 4, 0x80 ≤ (b k).toNat) →
      ((b 4).toNat < 0x10 → varint32Scan s.decByte = .ok (BitVec.ofNat 32 (groups b 5), 5)) ∧
      (0x10 ≤ (b 4).toNat → (b 4).toNat < 0xF0 → varint32Scan s.decByte = .error .varint32Bad) ∧
      (0xF0 ≤ (b 4).toNat →
        (∀ j, 5 ≤ j → j ≤ 8 → j < avail → (∀ k, 5 ≤ k → k < j → b k = 0xFF#8) → b j ≠ 0xFF#8 →
          varint32Scan s.decByte = .error .varint32Bad) ∧
        (avail ≤ 9 → (∀ k, 5 ≤ k → k < avail → b k = 0xFF#8) → varint32Scan s.decByte = .error .pastEnd) ∧
        (10 ≤ avail → (∀ k, 5 ≤ k → k ≤ 8 → b k = 0xFF#8) →
          (0x80 ≤ (b 9).toNat → varint32Scan s.decByte = .error .varintLong) ∧
          (b 9 = 0x01#8 → varint32Scan s.decByte = .ok (BitVec.ofNat 32 (groups b 5), 10)) ∧
          ((b 9).toNat < 0x80 → b 9 ≠ 0x01#8 → varint32Scan s.decByte = .error .varint32Bad))))

/-- R134: the 64-bit scan: the digits of at most ten bytes, mod 2^64; VARINT_LONG if the tenth still continues; PAST_END where
the block ends first. -/
def Obligations.Varint64ScanByBytes : Prop :=
  ∀ (s : State) (b : Nat → Byte) (avail : Nat), (∀ k, b k = s.byte (s.pos.toNat + k)) →
    s.endAddr.toNat = s.pos.toNat + avail →
    (∀ n, 1 ≤ n → n ≤ 10 → n ≤ avail → (∀ k, k + 1 < n → 0x80 ≤ (b k).toNat) → (b (n - 1)).toNat < 0x80 →
      varint64Scan s.decByte = .ok (BitVec.ofNat 64 (groups b n), n)) ∧
    (10 ≤ avail → (∀ k < 10, 0x80 ≤ (b k).toNat) → varint64Scan s.decByte = .error .varintLong) ∧
    (avail ≤ 9 → (∀ k < avail, 0x80 ≤ (b k).toNat) → varint64Scan s.decByte = .error .pastEnd)

/-- R135 to R139: the varint reads: the scanned 32-bit pattern zero-extended, sign-extended and zigzag-decoded, the scanned
64-bit value and its zigzag decode. R246: the scan's error otherwise, with its code: PAST_END 1, VARINT_LONG 2 and, of the
32-bit scan alone, VARINT32_BAD 3; there is no other. -/
def Obligations.VarintReads : Prop :=
  RunsAs 0x30#8 0x000FFFFF#32 anyImm (fun f => .rvu32 f.rd) ∧
  RunsAs 0x31#8 0x000FFFFF#32 anyImm (fun f => .rvs32 f.rd) ∧
  RunsAs 0x32#8 0x000FFFFF#32 anyImm (fun f => .rvz32 f.rd) ∧
  RunsAs 0x33#8 0x000FFFFF#32 anyImm (fun f => .rv64 f.rd) ∧
  RunsAs 0x34#8 0x000FFFFF#32 anyImm (fun f => .rvz64 f.rd) ∧
  ∀ (rd : Reg) (s : State),
    (∀ (x : Word) (n : Nat), varint32Scan s.decByte = .ok (x, n) →
      exec (.rvu32 rd) s = .next (readDone s rd (BitVec.ofNat 64 x.toNat) n) ∧
      exec (.rvs32 rd) s = .next (readDone s rd (BitVec.ofInt 64 x.toInt) n) ∧
      exec (.rvz32 rd) s = .next (readDone s rd (BitVec.ofInt 64 (unzigzag x.toNat)) n)) ∧
    (∀ (v : Split64) (n : Nat), varint64Scan s.decByte = .ok (v, n) →
      exec (.rv64 rd) s = .next (readDone s rd v n) ∧
      exec (.rvz64 rd) s = .next (readDone s rd (BitVec.ofInt 64 (unzigzag v.toNat)) n)) ∧
    (∀ e : DecodeError, varint32Scan s.decByte = .error e →
      ∃ c : BitVec 4, (e, c) ∈ [(.pastEnd, 1#4), (.varintLong, 2#4), (.varint32Bad, 3#4)] ∧
        exec (.rvu32 rd) s = .next (decodeError c s) ∧ exec (.rvs32 rd) s = .next (decodeError c s) ∧
        exec (.rvz32 rd) s = .next (decodeError c s)) ∧
    (∀ e : DecodeError, varint64Scan s.decByte = .error e →
      ∃ c : BitVec 4, (e, c) ∈ [(.pastEnd, 1#4), (.varintLong, 2#4)] ∧
        exec (.rv64 rd) s = .next (decodeError c s) ∧ exec (.rvz64 rd) s = .next (decodeError c s))

/-- R140 to R144: the varint writes: RANGE for a value outside the 32-bit range of the form, then ENC_OVF, then the bytes; a
negative value is its 64-bit sign extension, a zigzag one 2n or -2n-1; the 64-bit forms take every register value. -/
def Obligations.VarintWrites : Prop :=
  RunsAs 0x40#8 0x00F0FFFF#32 anyImm (fun f => .wvu32 f.rs1) ∧
  RunsAs 0x41#8 0x00F0FFFF#32 anyImm (fun f => .wvs32 f.rs1) ∧
  RunsAs 0x42#8 0x00F0FFFF#32 anyImm (fun f => .wvz32 f.rs1) ∧
  RunsAs 0x43#8 0x00F0FFFF#32 anyImm (fun f => .wv64 f.rs1) ∧
  RunsAs 0x44#8 0x00F0FFFF#32 anyImm (fun f => .wvz64 f.rs1) ∧
  ∀ (r : Reg) (s : State),
    exec (.wvu32 r) s =
      .next (writeEnds s (Instr.wvu32 r).word0 (s.x[r].toNat < 2 ^ 32) 2#8 (varintBytes s.x[r].toNat)) ∧
    exec (.wvs32 r) s =
      .next (writeEnds s (Instr.wvs32 r).word0 (-2 ^ 31 ≤ s.x[r].toInt ∧ s.x[r].toInt < 2 ^ 31) 2#8
        (varintBytes s.x[r].toNat)) ∧
    exec (.wvz32 r) s =
      .next (writeEnds s (Instr.wvz32 r).word0 (-2 ^ 31 ≤ s.x[r].toInt ∧ s.x[r].toInt < 2 ^ 31) 2#8
        (varintBytes (zigzag s.x[r].toInt).toNat)) ∧
    exec (.wv64 r) s = .next (writeEnds s (Instr.wv64 r).word0 True 0#8 (varintBytes s.x[r].toNat)) ∧
    exec (.wvz64 r) s =
      .next (writeEnds s (Instr.wvz64 r).word0 True 0#8 (varintBytes (zigzag s.x[r].toInt).toNat))

/-! ## Fixed-width integers -/

/-- R161 to R166: the fixed reads of 1, 2 and 4 bytes, little-endian, zero- or sign-extended; PAST_END if they do not all lie
before END. -/
def Obligations.FixedReads : Prop :=
  RunsAs 0x35#8 0x000FFFFF#32 anyImm (fun f => .rfu8 f.rd) ∧ RunsAs 0x36#8 0x000FFFFF#32 anyImm (fun f => .rfs8 f.rd) ∧
  RunsAs 0x37#8 0x000FFFFF#32 anyImm (fun f => .rfu16 f.rd) ∧ RunsAs 0x38#8 0x000FFFFF#32 anyImm (fun f => .rfs16 f.rd) ∧
  RunsAs 0x39#8 0x000FFFFF#32 anyImm (fun f => .rfu32 f.rd) ∧ RunsAs 0x3A#8 0x000FFFFF#32 anyImm (fun f => .rfs32 f.rd) ∧
  ∀ (rd : Reg) (s : State) (b : Nat → Byte), (∀ k, b k = s.byte (s.pos.toNat + k)) →
    (s.pos.toNat + 1 ≤ s.endAddr.toNat →
      exec (.rfu8 rd) s = .next (readDone s rd ((b 0).setWidth 64) 1) ∧
      exec (.rfs8 rd) s = .next (readDone s rd ((b 0).signExtend 64) 1)) ∧
    (s.pos.toNat + 2 ≤ s.endAddr.toNat →
      exec (.rfu16 rd) s = .next (readDone s rd ((b 1 ++ b 0).setWidth 64) 2) ∧
      exec (.rfs16 rd) s = .next (readDone s rd ((b 1 ++ b 0).signExtend 64) 2)) ∧
    (s.pos.toNat + 4 ≤ s.endAddr.toNat →
      exec (.rfu32 rd) s = .next (readDone s rd ((b 3 ++ (b 2 ++ (b 1 ++ b 0))).setWidth 64) 4) ∧
      exec (.rfs32 rd) s = .next (readDone s rd ((b 3 ++ (b 2 ++ (b 1 ++ b 0))).signExtend 64) 4)) ∧
    (s.endAddr.toNat < s.pos.toNat + 1 →
      exec (.rfu8 rd) s = .next (decodeError 1#4 s) ∧ exec (.rfs8 rd) s = .next (decodeError 1#4 s)) ∧
    (s.endAddr.toNat < s.pos.toNat + 2 →
      exec (.rfu16 rd) s = .next (decodeError 1#4 s) ∧ exec (.rfs16 rd) s = .next (decodeError 1#4 s)) ∧
    (s.endAddr.toNat < s.pos.toNat + 4 →
      exec (.rfu32 rd) s = .next (decodeError 1#4 s) ∧ exec (.rfs32 rd) s = .next (decodeError 1#4 s))

/-- R167, R174: the 64-bit fixed read and write: eight bytes, the low word first, which is one little-endian value. -/
def Obligations.Fixed64IsOneLittleEndianValue : Prop :=
  RunsAs 0x3B#8 0x000FFFFF#32 anyImm (fun f => .rf64 f.rd) ∧ RunsAs 0x4B#8 0x00F0FFFF#32 anyImm (fun f => .wf64 f.rs1) ∧
  ∀ (rd : Reg) (s : State) (b : Nat → Byte), (∀ k, b k = s.byte (s.pos.toNat + k)) →
    exec (.rf64 rd) s =
      .next (if s.pos.toNat + 8 ≤ s.endAddr.toNat then
          readDone s rd (b 7 ++ (b 6 ++ (b 5 ++ (b 4 ++ (b 3 ++ (b 2 ++ (b 1 ++ b 0))))))) 8
        else decodeError 1#4 s) ∧
    exec (.wf64 rd) s = .next (writeEnds s (Instr.wf64 rd).word0 True 0#8 (lowBytes s.x[rd] 8))

/-- R168 to R173: the fixed writes of 1, 2 and 4 bytes: RANGE unless the value is in the unsigned or the signed range of the
width, then ENC_OVF, then the low bytes, lowest first. -/
def Obligations.FixedWrites : Prop :=
  RunsAs 0x45#8 0x00F0FFFF#32 anyImm (fun f => .wfu8 f.rs1) ∧ RunsAs 0x46#8 0x00F0FFFF#32 anyImm (fun f => .wfs8 f.rs1) ∧
  RunsAs 0x47#8 0x00F0FFFF#32 anyImm (fun f => .wfu16 f.rs1) ∧ RunsAs 0x48#8 0x00F0FFFF#32 anyImm (fun f => .wfs16 f.rs1) ∧
  RunsAs 0x49#8 0x00F0FFFF#32 anyImm (fun f => .wfu32 f.rs1) ∧ RunsAs 0x4A#8 0x00F0FFFF#32 anyImm (fun f => .wfs32 f.rs1) ∧
  ∀ (r : Reg) (s : State),
    exec (.wfu8 r) s =
      .next (writeEnds s (Instr.wfu8 r).word0 (s.x[r].toNat < 256) 2#8 (lowBytes s.x[r] 1)) ∧
    exec (.wfs8 r) s =
      .next (writeEnds s (Instr.wfs8 r).word0 (-128 ≤ s.x[r].toInt ∧ s.x[r].toInt < 128) 2#8 (lowBytes s.x[r] 1)) ∧
    exec (.wfu16 r) s =
      .next (writeEnds s (Instr.wfu16 r).word0 (s.x[r].toNat < 65536) 2#8 (lowBytes s.x[r] 2)) ∧
    exec (.wfs16 r) s =
      .next (writeEnds s (Instr.wfs16 r).word0 (-32768 ≤ s.x[r].toInt ∧ s.x[r].toInt < 32768) 2#8 (lowBytes s.x[r] 2)) ∧
    exec (.wfu32 r) s =
      .next (writeEnds s (Instr.wfu32 r).word0 (s.x[r].toNat < 2 ^ 32) 2#8 (lowBytes s.x[r] 4)) ∧
    exec (.wfs32 r) s =
      .next (writeEnds s (Instr.wfs32 r).word0 (-2 ^ 31 ≤ s.x[r].toInt ∧ s.x[r].toInt < 2 ^ 31) 2#8 (lowBytes s.x[r] 4))

/-! ## Field tags -/

/-- R222, R246: NEXTF: at the end of the block 0 and no field; else the scanned tag, its wire type checked before its field number,
field number to lo and wire type to hi; a decode error clears FVALID and leaves x[rd], TAG and POS. That every scanned tag
with a legal wire type and a field number other than 0 is taken, a ten-byte one with a field number below 2^28 included,
is the model's choice against a corner-case sentence of R222 (DEDUCED: log 9). -/
def Obligations.NextfParsesATag : Prop :=
  RunsAs 0x50#8 0x000FFFFF#32 anyImm (fun f => .nextf f.rd) ∧
  ∀ (rd : Reg) (s s0 : State), s0 = { s with status := { s.status with fvalid := false } } →
    (s.pos.toNat = s.endAddr.toNat →
      exec (.nextf rd) s = .next { s with x := s.x.set rd 0#64, tag := 0#32, cp := s.cp + 1#32,
                                          status := { s.status with fvalid := false, fail := false } }) ∧
    (s.pos.toNat ≠ s.endAddr.toNat →
      (∀ e : DecodeError, varint32Scan s.decByte = .error e →
        ∃ c : BitVec 4, (e, c) ∈ [(.pastEnd, 1#4), (.varintLong, 2#4), (.varint32Bad, 3#4)] ∧
          exec (.nextf rd) s = .next (decodeError c s0)) ∧
      (∀ (t : Word) (n : Nat), varint32Scan s.decByte = .ok (t, n) →
        (5 < t.toNat % 8 → exec (.nextf rd) s = .next (decodeError 4#4 s0)) ∧
        (t.toNat % 8 ≤ 5 → t.toNat / 8 = 0 → exec (.nextf rd) s = .next (decodeError 5#4 s0)) ∧
        (t.toNat % 8 ≤ 5 → t.toNat / 8 ≠ 0 →
          exec (.nextf rd) s = .next { s with
            x := s.x.set rd (BitVec.ofNat 64 (t.toNat % 8 * 2 ^ 32 + t.toNat / 8)), tag := t,
            status := { s.status with fvalid := true, fail := false },
            pos := s.pos + BitVec.ofNat 32 n, cp := s.cp + 1#32 })))

/-- R223: WTCHK changes nothing but CP if a field is held with that wire type, and faults WIRETYPE otherwise. -/
def Obligations.WtchkChecksTheCurrentField : Prop :=
  RunsAs 0x51#8 0x00FFFF00#32 (fun v => decide (v.toNat ≤ 5)) (fun f => .wtchk f.imm8) ∧
  ∀ (wt : BitVec 8) (s : State), wt.toNat ≤ 5 →
    (s.status.fvalid = true → s.tag.toNat % 8 = wt.toNat → exec (.wtchk wt) s = .next { s with cp := s.cp + 1#32 }) ∧
    (s.status.fvalid = false ∨ s.tag.toNat % 8 ≠ wt.toNat →
      exec (.wtchk wt) s = .next (contractFault 4#8 (Instr.wtchk wt).word0 s))

/-- R224: WTAG writes the varint of f*8 + wt for a field number from 1 to 2^29-1; else TAG_INVALID; ENC_OVF after that. -/
def Obligations.WtagWritesATag : Prop :=
  RunsAs 0x52#8 0x00F0FF00#32 (fun v => decide (v.toNat ≤ 5)) (fun f => .wtag f.rs1 f.imm8) ∧
  ∀ (r : Reg) (wt : BitVec 8) (s : State), wt.toNat ≤ 5 →
    exec (.wtag r wt) s =
      .next (writeEnds s (Instr.wtag r wt).word0 (1 ≤ s.x[r].toNat ∧ s.x[r].toNat ≤ 2 ^ 29 - 1) 3#8
        (varintBytes (s.x[r].toNat * 8 + wt.toNat)))

/-! ## Round trips through MEM (R63) -/

/-- What a varint write emitted, the matching read gives back, and takes exactly those bytes: after the write, a block
over the bytes written, the read leaves the register's value in x[b] and POS at END with no error. -/
def Obligations.VarintWritesReadBack : Prop :=
  ∀ (wr rd : Instr) (r b : Reg) (s t : State), Memory.wf s.mem → s.status.fault = false →
    (wr, rd) ∈ [(Instr.wvu32 r, Instr.rvu32 b), (.wvs32 r, .rvs32 b), (.wvz32 r, .rvz32 b), (.wv64 r, .rv64 b),
      (.wvz64 r, .rvz64 b)] →
    exec wr s = .next t → t.status.fault = false →
    ∃ u : State, exec rd { t with start := s.wpos, pos := s.wpos, endAddr := t.wpos } = .next u ∧
      u.x[b] = s.x[r] ∧ u.pos = t.wpos ∧ u.status.fail = false ∧ u.status.derr = s.status.derr

/-- The same for the fixed-width and double writes (a NaN comes back canonical), and for a tag: NEXTF gives the field number
and wire type that WTAG was given. -/
def Obligations.FixedAndTagWritesReadBack : Prop :=
  ∀ (r b : Reg) (s t : State), Memory.wf s.mem → s.status.fault = false → t.status.fault = false →
    (∀ wr rd : Instr,
      (wr, rd) ∈ [(Instr.wfu8 r, Instr.rfu8 b), (.wfs8 r, .rfs8 b), (.wfu16 r, .rfu16 b), (.wfs16 r, .rfs16 b),
        (.wfu32 r, .rfu32 b), (.wfs32 r, .rfs32 b), (.wf64 r, .rf64 b), (.wdbl r, .rdbl b)] →
      exec wr s = .next t →
      ∃ u : State, exec rd { t with start := s.wpos, pos := s.wpos, endAddr := t.wpos } = .next u ∧
        (NaN64 s.x[r] ∧ wr = .wdbl r ∧ u.x[b] = 0x7FF8000000000000#64 ∨
          ¬(NaN64 s.x[r] ∧ wr = .wdbl r) ∧ u.x[b] = s.x[r]) ∧
        u.pos = t.wpos ∧ u.status.fail = false) ∧
    (∀ wt : BitVec 8, exec (.wtag r wt) s = .next t →
      ∃ u : State, exec (.nextf b) { t with start := s.wpos, pos := s.wpos, endAddr := t.wpos } = .next u ∧
        u.x[b].toNat = wt.toNat * 2 ^ 32 + s.x[r].toNat ∧ u.status.fvalid = true ∧ u.pos = t.wpos ∧
        u.status.fail = false)
end

