-- ==== Sys2Proof/Laws/Encoding.lean ====
section
/-! SUPPORT. The field positions of format R read back what the encoder laid side by side (30_encoding.md R71), and a
word is its fields. -/

namespace Sys2Proof

/-- The decoder's fields of an encoded word 0 are the fields it was encoded from (R71). -/
@[simp] theorem fieldsOf_encodeR (op : BitVec 8) (rd rs1 rs2 rs3 : Reg) (imm8 : BitVec 8) :
    fieldsOf (encodeR op rd rs1 rs2 rs3 imm8) = ⟨op, rd, rs1, rs2, rs3, imm8⟩ := by
  have key : ∀ (a : BitVec 8) (b c d e : BitVec 4) (i : BitVec 8),
      (a ++ (b ++ (c ++ (d ++ (e ++ i))))).extractLsb' 24 8 = a ∧
      (a ++ (b ++ (c ++ (d ++ (e ++ i))))).extractLsb' 20 4 = b ∧
      (a ++ (b ++ (c ++ (d ++ (e ++ i))))).extractLsb' 16 4 = c ∧
      (a ++ (b ++ (c ++ (d ++ (e ++ i))))).extractLsb' 12 4 = d ∧
      (a ++ (b ++ (c ++ (d ++ (e ++ i))))).extractLsb' 8 4 = e ∧
      (a ++ (b ++ (c ++ (d ++ (e ++ i))))).extractLsb' 0 8 = i := by
    intro a b c d e i
    refine ⟨?_, ?_, ?_, ?_, ?_, ?_⟩ <;>
      (apply BitVec.eq_of_getLsbD_eq
       intro k hk
       simp only [BitVec.getLsbD_extractLsb', BitVec.getLsbD_append]
       repeat' split
       all_goals (first | omega | (simp only [hk, decide_true, Bool.true_and]; congr 1; omega)))
  obtain ⟨h1, h2, h3, h4, h5, h6⟩ := key op (.ofFin rd) (.ofFin rs1) (.ofFin rs2) (.ofFin rs3) imm8
  simp only [fieldsOf, encodeR, h1, h2, h3, h4, h5, h6]

/-- A word is its fields side by side (R71). -/
theorem encodeR_fieldsOf (w : Word) :
    encodeR (fieldsOf w).op (fieldsOf w).rd (fieldsOf w).rs1 (fieldsOf w).rs2 (fieldsOf w).rs3 (fieldsOf w).imm8 = w := by
  apply BitVec.eq_of_getLsbD_eq
  intro k hk
  simp only [fieldsOf, encodeR, BitVec.ofFin_toFin, BitVec.getLsbD_extractLsb', BitVec.getLsbD_append]
  repeat' split
  all_goals
    rw [decide_eq_true (by omega), Bool.true_and]
    congr 1
    omega

end Sys2Proof
end

