-- ==== Sys2Proof/Laws/State.lean ====
section
/-! SUPPORT. One lemma per field per update of State and of Status, all by rfl, so that no proof unfolds an update. -/

namespace Sys2Proof.Machine

variable (s : State) (st : Status)

/-! ## State.setReg -/

@[simp] theorem State.setReg_cfg (r : Reg) (v : Split64) : (s.setReg r v).cfg = s.cfg := rfl
@[simp] theorem State.setReg_x (r : Reg) (v : Split64) : (s.setReg r v).x = s.x.set r v := rfl
@[simp] theorem State.setReg_status (r : Reg) (v : Split64) : (s.setReg r v).status = s.status := rfl
@[simp] theorem State.setReg_start (r : Reg) (v : Split64) : (s.setReg r v).start = s.start := rfl
@[simp] theorem State.setReg_endAddr (r : Reg) (v : Split64) : (s.setReg r v).endAddr = s.endAddr := rfl
@[simp] theorem State.setReg_pos (r : Reg) (v : Split64) : (s.setReg r v).pos = s.pos := rfl
@[simp] theorem State.setReg_wpos (r : Reg) (v : Split64) : (s.setReg r v).wpos = s.wpos := rfl
@[simp] theorem State.setReg_tag (r : Reg) (v : Split64) : (s.setReg r v).tag = s.tag := rfl
@[simp] theorem State.setReg_fcmd (r : Reg) (v : Split64) : (s.setReg r v).fcmd = s.fcmd := rfl
@[simp] theorem State.setReg_cp (r : Reg) (v : Split64) : (s.setReg r v).cp = s.cp := rfl
@[simp] theorem State.setReg_latch (r : Reg) (v : Split64) : (s.setReg r v).latch = s.latch := rfl
@[simp] theorem State.setReg_mem (r : Reg) (v : Split64) : (s.setReg r v).mem = s.mem := rfl
@[simp] theorem State.setReg_input (r : Reg) (v : Split64) : (s.setReg r v).input = s.input := rfl

/-! ## State.advance -/

@[simp] theorem State.advance_cfg (n : Nat) : (s.advance n).cfg = s.cfg := rfl
@[simp] theorem State.advance_x (n : Nat) : (s.advance n).x = s.x := rfl
@[simp] theorem State.advance_status (n : Nat) : (s.advance n).status = s.status := rfl
@[simp] theorem State.advance_start (n : Nat) : (s.advance n).start = s.start := rfl
@[simp] theorem State.advance_endAddr (n : Nat) : (s.advance n).endAddr = s.endAddr := rfl
@[simp] theorem State.advance_pos (n : Nat) : (s.advance n).pos = s.pos := rfl
@[simp] theorem State.advance_wpos (n : Nat) : (s.advance n).wpos = s.wpos := rfl
@[simp] theorem State.advance_tag (n : Nat) : (s.advance n).tag = s.tag := rfl
@[simp] theorem State.advance_fcmd (n : Nat) : (s.advance n).fcmd = s.fcmd := rfl
@[simp] theorem State.advance_cp (n : Nat) : (s.advance n).cp = s.cp + BitVec.ofNat 32 n := rfl
@[simp] theorem State.advance_latch (n : Nat) : (s.advance n).latch = s.latch := rfl
@[simp] theorem State.advance_mem (n : Nat) : (s.advance n).mem = s.mem := rfl
@[simp] theorem State.advance_input (n : Nat) : (s.advance n).input = s.input := rfl

/-! ## State.result -/

@[simp] theorem State.result_cfg (r : Reg) (v : Split64) : (s.result r v).cfg = s.cfg := rfl
@[simp] theorem State.result_x (r : Reg) (v : Split64) : (s.result r v).x = s.x.set r v := rfl
@[simp] theorem State.result_status (r : Reg) (v : Split64) : (s.result r v).status = s.status := rfl
@[simp] theorem State.result_start (r : Reg) (v : Split64) : (s.result r v).start = s.start := rfl
@[simp] theorem State.result_endAddr (r : Reg) (v : Split64) : (s.result r v).endAddr = s.endAddr := rfl
@[simp] theorem State.result_pos (r : Reg) (v : Split64) : (s.result r v).pos = s.pos := rfl
@[simp] theorem State.result_wpos (r : Reg) (v : Split64) : (s.result r v).wpos = s.wpos := rfl
@[simp] theorem State.result_tag (r : Reg) (v : Split64) : (s.result r v).tag = s.tag := rfl
@[simp] theorem State.result_fcmd (r : Reg) (v : Split64) : (s.result r v).fcmd = s.fcmd := rfl
@[simp] theorem State.result_cp (r : Reg) (v : Split64) : (s.result r v).cp = s.cp + 1#32 := rfl
@[simp] theorem State.result_latch (r : Reg) (v : Split64) : (s.result r v).latch = s.latch := rfl
@[simp] theorem State.result_mem (r : Reg) (v : Split64) : (s.result r v).mem = s.mem := rfl
@[simp] theorem State.result_input (r : Reg) (v : Split64) : (s.result r v).input = s.input := rfl

/-! ## State.advancePos -/

@[simp] theorem State.advancePos_cfg (n : Nat) : (s.advancePos n).cfg = s.cfg := rfl
@[simp] theorem State.advancePos_x (n : Nat) : (s.advancePos n).x = s.x := rfl
@[simp] theorem State.advancePos_status (n : Nat) : (s.advancePos n).status = s.status := rfl
@[simp] theorem State.advancePos_start (n : Nat) : (s.advancePos n).start = s.start := rfl
@[simp] theorem State.advancePos_endAddr (n : Nat) : (s.advancePos n).endAddr = s.endAddr := rfl
@[simp] theorem State.advancePos_pos (n : Nat) : (s.advancePos n).pos = s.pos + BitVec.ofNat 32 n := rfl
@[simp] theorem State.advancePos_wpos (n : Nat) : (s.advancePos n).wpos = s.wpos := rfl
@[simp] theorem State.advancePos_tag (n : Nat) : (s.advancePos n).tag = s.tag := rfl
@[simp] theorem State.advancePos_fcmd (n : Nat) : (s.advancePos n).fcmd = s.fcmd := rfl
@[simp] theorem State.advancePos_cp (n : Nat) : (s.advancePos n).cp = s.cp := rfl
@[simp] theorem State.advancePos_latch (n : Nat) : (s.advancePos n).latch = s.latch := rfl
@[simp] theorem State.advancePos_mem (n : Nat) : (s.advancePos n).mem = s.mem := rfl
@[simp] theorem State.advancePos_input (n : Nat) : (s.advancePos n).input = s.input := rfl

/-! ## State.raiseFault -/

@[simp] theorem State.raiseFault_cfg (c : FaultCode) (w0 : Word) : (s.raiseFault c w0).cfg = s.cfg := rfl
@[simp] theorem State.raiseFault_x (c : FaultCode) (w0 : Word) : (s.raiseFault c w0).x = s.x := rfl
@[simp] theorem State.raiseFault_status (c : FaultCode) (w0 : Word) : (s.raiseFault c w0).status = s.status.raiseFault c := rfl
@[simp] theorem State.raiseFault_start (c : FaultCode) (w0 : Word) : (s.raiseFault c w0).start = s.start := rfl
@[simp] theorem State.raiseFault_endAddr (c : FaultCode) (w0 : Word) : (s.raiseFault c w0).endAddr = s.endAddr := rfl
@[simp] theorem State.raiseFault_pos (c : FaultCode) (w0 : Word) : (s.raiseFault c w0).pos = s.pos := rfl
@[simp] theorem State.raiseFault_wpos (c : FaultCode) (w0 : Word) : (s.raiseFault c w0).wpos = s.wpos := rfl
@[simp] theorem State.raiseFault_tag (c : FaultCode) (w0 : Word) : (s.raiseFault c w0).tag = s.tag := rfl
@[simp] theorem State.raiseFault_fcmd (c : FaultCode) (w0 : Word) : (s.raiseFault c w0).fcmd = w0 := rfl
@[simp] theorem State.raiseFault_cp (c : FaultCode) (w0 : Word) : (s.raiseFault c w0).cp = s.cp := rfl
@[simp] theorem State.raiseFault_latch (c : FaultCode) (w0 : Word) : (s.raiseFault c w0).latch = s.latch := rfl
@[simp] theorem State.raiseFault_mem (c : FaultCode) (w0 : Word) : (s.raiseFault c w0).mem = s.mem := rfl
@[simp] theorem State.raiseFault_input (c : FaultCode) (w0 : Word) : (s.raiseFault c w0).input = s.input := rfl

/-! ## State.raiseDecodeError -/

@[simp] theorem State.raiseDecodeError_cfg (c : DecodeError) : (s.raiseDecodeError c).cfg = s.cfg := rfl
@[simp] theorem State.raiseDecodeError_x (c : DecodeError) : (s.raiseDecodeError c).x = s.x := rfl
@[simp] theorem State.raiseDecodeError_status (c : DecodeError) : (s.raiseDecodeError c).status = s.status.raiseDecodeError c := rfl
@[simp] theorem State.raiseDecodeError_start (c : DecodeError) : (s.raiseDecodeError c).start = s.start := rfl
@[simp] theorem State.raiseDecodeError_endAddr (c : DecodeError) : (s.raiseDecodeError c).endAddr = s.endAddr := rfl
@[simp] theorem State.raiseDecodeError_pos (c : DecodeError) : (s.raiseDecodeError c).pos = s.pos := rfl
@[simp] theorem State.raiseDecodeError_wpos (c : DecodeError) : (s.raiseDecodeError c).wpos = s.wpos := rfl
@[simp] theorem State.raiseDecodeError_tag (c : DecodeError) : (s.raiseDecodeError c).tag = s.tag := rfl
@[simp] theorem State.raiseDecodeError_fcmd (c : DecodeError) : (s.raiseDecodeError c).fcmd = s.fcmd := rfl
@[simp] theorem State.raiseDecodeError_cp (c : DecodeError) : (s.raiseDecodeError c).cp = s.cp + 1#32 := rfl
@[simp] theorem State.raiseDecodeError_latch (c : DecodeError) : (s.raiseDecodeError c).latch = s.latch := rfl
@[simp] theorem State.raiseDecodeError_mem (c : DecodeError) : (s.raiseDecodeError c).mem = s.mem := rfl
@[simp] theorem State.raiseDecodeError_input (c : DecodeError) : (s.raiseDecodeError c).input = s.input := rfl

/-! ## State.resetUnit and State.powerUp (R38, R270) -/

@[simp] theorem State.resetUnit_cfg : s.resetUnit.cfg = s.cfg := rfl
@[simp] theorem State.resetUnit_x : s.resetUnit.x = Vector.replicate 16 0#64 := rfl
@[simp] theorem State.resetUnit_status : s.resetUnit.status = Status.zero := rfl
@[simp] theorem State.resetUnit_start : s.resetUnit.start = 0#32 := rfl
@[simp] theorem State.resetUnit_endAddr : s.resetUnit.endAddr = 0#32 := rfl
@[simp] theorem State.resetUnit_pos : s.resetUnit.pos = 0#32 := rfl
@[simp] theorem State.resetUnit_wpos : s.resetUnit.wpos = 0#32 := rfl
@[simp] theorem State.resetUnit_tag : s.resetUnit.tag = 0#32 := rfl
@[simp] theorem State.resetUnit_fcmd : s.resetUnit.fcmd = 0#32 := rfl
@[simp] theorem State.resetUnit_cp : s.resetUnit.cp = 0#32 := rfl
@[simp] theorem State.resetUnit_latch : s.resetUnit.latch = none := rfl
@[simp] theorem State.resetUnit_mem : s.resetUnit.mem = s.mem := rfl
@[simp] theorem State.resetUnit_input : s.resetUnit.input = s.input := rfl
@[simp] theorem State.powerUp_cfg (c : Config) (m : Memory) : (State.powerUp c m).cfg = c := rfl
@[simp] theorem State.powerUp_x (c : Config) (m : Memory) : (State.powerUp c m).x = Vector.replicate 16 0#64 := rfl
@[simp] theorem State.powerUp_status (c : Config) (m : Memory) : (State.powerUp c m).status = Status.zero := rfl
@[simp] theorem State.powerUp_start (c : Config) (m : Memory) : (State.powerUp c m).start = 0#32 := rfl
@[simp] theorem State.powerUp_endAddr (c : Config) (m : Memory) : (State.powerUp c m).endAddr = 0#32 := rfl
@[simp] theorem State.powerUp_pos (c : Config) (m : Memory) : (State.powerUp c m).pos = 0#32 := rfl
@[simp] theorem State.powerUp_wpos (c : Config) (m : Memory) : (State.powerUp c m).wpos = 0#32 := rfl
@[simp] theorem State.powerUp_tag (c : Config) (m : Memory) : (State.powerUp c m).tag = 0#32 := rfl
@[simp] theorem State.powerUp_fcmd (c : Config) (m : Memory) : (State.powerUp c m).fcmd = 0#32 := rfl
@[simp] theorem State.powerUp_cp (c : Config) (m : Memory) : (State.powerUp c m).cp = 0#32 := rfl
@[simp] theorem State.powerUp_latch (c : Config) (m : Memory) : (State.powerUp c m).latch = none := rfl
@[simp] theorem State.powerUp_mem (c : Config) (m : Memory) : (State.powerUp c m).mem = m := rfl
@[simp] theorem State.powerUp_input (c : Config) (m : Memory) : (State.powerUp c m).input = [] := rfl

/-! ## State.sent -/

@[simp] theorem State.sent_cfg (w : Word) (rest : List HostAction) : (s.sent w rest).cfg = s.cfg := rfl
@[simp] theorem State.sent_x (w : Word) (rest : List HostAction) : (s.sent w rest).x = s.x := rfl
@[simp] theorem State.sent_status (w : Word) (rest : List HostAction) : (s.sent w rest).status = s.status := rfl
@[simp] theorem State.sent_start (w : Word) (rest : List HostAction) : (s.sent w rest).start = s.start := rfl
@[simp] theorem State.sent_endAddr (w : Word) (rest : List HostAction) : (s.sent w rest).endAddr = s.endAddr := rfl
@[simp] theorem State.sent_pos (w : Word) (rest : List HostAction) : (s.sent w rest).pos = s.pos := rfl
@[simp] theorem State.sent_wpos (w : Word) (rest : List HostAction) : (s.sent w rest).wpos = s.wpos := rfl
@[simp] theorem State.sent_tag (w : Word) (rest : List HostAction) : (s.sent w rest).tag = s.tag := rfl
@[simp] theorem State.sent_fcmd (w : Word) (rest : List HostAction) : (s.sent w rest).fcmd = s.fcmd := rfl
@[simp] theorem State.sent_cp (w : Word) (rest : List HostAction) : (s.sent w rest).cp = s.cp := rfl
@[simp] theorem State.sent_latch (w : Word) (rest : List HostAction) : (s.sent w rest).latch = s.latch := rfl
@[simp] theorem State.sent_mem (w : Word) (rest : List HostAction) : (s.sent w rest).mem = s.mem := rfl
@[simp] theorem State.sent_input (w : Word) (rest : List HostAction) : (s.sent w rest).input = (.word w :: rest) := rfl

/-! ## Status -/

@[simp] theorem Status.raiseFault_derr (c : FaultCode) : (st.raiseFault c).derr = st.derr := rfl
@[simp] theorem Status.raiseFault_fail (c : FaultCode) : (st.raiseFault c).fail = st.fail := rfl
@[simp] theorem Status.raiseFault_fvalid (c : FaultCode) : (st.raiseFault c).fvalid = st.fvalid := rfl
@[simp] theorem Status.raiseFault_fault (c : FaultCode) : (st.raiseFault c).fault = true := rfl
@[simp] theorem Status.raiseFault_ecode (c : FaultCode) : (st.raiseFault c).ecode = st.ecode := rfl
@[simp] theorem Status.raiseFault_fcode (c : FaultCode) : (st.raiseFault c).fcode = c.code := rfl

@[simp] theorem Status.raiseDecodeError_derr (c : DecodeError) : (st.raiseDecodeError c).derr = true := rfl
@[simp] theorem Status.raiseDecodeError_fail (c : DecodeError) : (st.raiseDecodeError c).fail = true := rfl
@[simp] theorem Status.raiseDecodeError_fvalid (c : DecodeError) : (st.raiseDecodeError c).fvalid = st.fvalid := rfl
@[simp] theorem Status.raiseDecodeError_fault (c : DecodeError) : (st.raiseDecodeError c).fault = st.fault := rfl
@[simp] theorem Status.raiseDecodeError_ecode (c : DecodeError) : (st.raiseDecodeError c).ecode = (if st.ecode = 0#4 then c.code else st.ecode) := rfl
@[simp] theorem Status.raiseDecodeError_fcode (c : DecodeError) : (st.raiseDecodeError c).fcode = st.fcode := rfl

@[simp] theorem Status.setFail_derr (b : Bool) : (st.setFail b).derr = st.derr := rfl
@[simp] theorem Status.setFail_fail (b : Bool) : (st.setFail b).fail = b := rfl
@[simp] theorem Status.setFail_fvalid (b : Bool) : (st.setFail b).fvalid = st.fvalid := rfl
@[simp] theorem Status.setFail_fault (b : Bool) : (st.setFail b).fault = st.fault := rfl
@[simp] theorem Status.setFail_ecode (b : Bool) : (st.setFail b).ecode = st.ecode := rfl
@[simp] theorem Status.setFail_fcode (b : Bool) : (st.setFail b).fcode = st.fcode := rfl

@[simp] theorem Status.setFvalid_derr (b : Bool) : (st.setFvalid b).derr = st.derr := rfl
@[simp] theorem Status.setFvalid_fail (b : Bool) : (st.setFvalid b).fail = st.fail := rfl
@[simp] theorem Status.setFvalid_fvalid (b : Bool) : (st.setFvalid b).fvalid = b := rfl
@[simp] theorem Status.setFvalid_fault (b : Bool) : (st.setFvalid b).fault = st.fault := rfl
@[simp] theorem Status.setFvalid_ecode (b : Bool) : (st.setFvalid b).ecode = st.ecode := rfl
@[simp] theorem Status.setFvalid_fcode (b : Bool) : (st.setFvalid b).fcode = st.fcode := rfl

@[simp] theorem Status.newBlock_derr : (st.newBlock).derr = false := rfl
@[simp] theorem Status.newBlock_fail : (st.newBlock).fail = false := rfl
@[simp] theorem Status.newBlock_fvalid : (st.newBlock).fvalid = false := rfl
@[simp] theorem Status.newBlock_fault : (st.newBlock).fault = st.fault := rfl
@[simp] theorem Status.newBlock_ecode : (st.newBlock).ecode = 0#4 := rfl
@[simp] theorem Status.newBlock_fcode : (st.newBlock).fcode = st.fcode := rfl

@[simp] theorem Status.zero_derr : Status.zero.derr = false := rfl
@[simp] theorem Status.zero_fail : Status.zero.fail = false := rfl
@[simp] theorem Status.zero_fvalid : Status.zero.fvalid = false := rfl
@[simp] theorem Status.zero_fault : Status.zero.fault = false := rfl
@[simp] theorem Status.zero_ecode : Status.zero.ecode = 0#4 := rfl
@[simp] theorem Status.zero_fcode : Status.zero.fcode = 0#8 := rfl

/-! ## Reading registers and the memory size after an update -/

@[simp] theorem State.memBytes_eq : s.memBytes = s.cfg.memBytes := rfl
@[simp] theorem State.reg_eq (r : Reg) : s.reg r = s.x[r] := rfl

/-- Reading the register just written (R20). -/
theorem State.reg_setReg_self (r : Reg) (v : Split64) : (s.setReg r v).reg r = v := by
  simp [State.reg, State.setReg]

/-- Reading any other register (R20: no banks, no windows). -/
theorem State.reg_setReg_other (r q : Reg) (v : Split64) (h : r ≠ q) : (s.setReg r v).reg q = s.reg q := by
  have hv : r.val ≠ q.val := fun e => h (Fin.ext e)
  simp [State.reg, State.setReg, hv]

/-- MEM_BYTES is at least 2^8 and at most 2^31 (R5). -/
theorem State.memBytes_bounds : 2 ^ 8 ≤ s.memBytes ∧ s.memBytes ≤ 2 ^ 31 := by
  have h := s.cfg.memLog.isLt
  simp only [State.memBytes, Config.memBytes]
  exact ⟨Nat.pow_le_pow_right (by decide) (by omega), Nat.pow_le_pow_right (by decide) (by omega)⟩

end Sys2Proof.Machine
end

