-- ==== Sys2Proof/Laws/Memory.lean ====
section
/-! SUPPORT. MEM: a byte read after a write, the canonical form kept by every memory operation, and the little-endian
primitives of 20_memory.md R58. -/

namespace Sys2Proof.Machine

/-! ## One byte -/

theorem Memory.read_write_self (m : Memory) (a : Nat) (b : Byte) (h : Memory.wf m) : (m.write a b).read a = b := by
  induction m with
  | nil => unfold Memory.write; split <;> simp_all [Memory.read]
  | cons c m ih =>
    obtain ⟨hp, hn⟩ := h
    rw [List.pairwise_cons] at hp
    have ih := ih ⟨hp.2, fun d hd => hn d (List.mem_cons_of_mem _ hd)⟩
    have absent : ∀ {m' : Memory}, (∀ d ∈ m', a < d.1) → m'.read a = Config.unlistedByte := by
      intro m' hm
      induction m' with
      | nil => rfl
      | cons d m' ih' =>
        have := hm d (List.mem_cons_self ..)
        rw [Memory.read, if_neg (by omega)]
        exact ih' fun e he => hm e (List.mem_cons_of_mem _ he)
    unfold Memory.write
    split
    · rename_i hlt
      split
      · rename_i hb
        subst hb
        exact absent fun d hd => by
          rcases List.mem_cons.1 hd with rfl | hd
          · exact hlt
          · exact Nat.lt_trans hlt (hp.1 d hd)
      · simp [Memory.read]
    · split
      · rename_i hca
        split
        · rename_i hb
          subst hb
          exact absent fun d hd => by rw [← hca]; exact hp.1 d hd
        · simp [Memory.read]
      · rename_i hca
        rw [Memory.read, if_neg hca]
        exact ih

theorem Memory.read_write_other (m : Memory) (a a' : Nat) (b : Byte) (h : a ≠ a') :
    (m.write a b).read a' = m.read a' := by
  induction m with
  | nil => unfold Memory.write; split <;> simp_all [Memory.read]
  | cons c m ih =>
    unfold Memory.write
    split
    · split
      · rfl
      · rw [Memory.read, if_neg h]
    · split
      · rename_i hca
        have hc : c.1 ≠ a' := fun e => h (by rw [← hca, e])
        split
        · rw [Memory.read, if_neg hc]
        · rw [Memory.read, if_neg h, Memory.read, if_neg hc]
      · rw [Memory.read, Memory.read, ih]

/-! ## The canonical form -/

/-- A written entry is the new one or an old one. -/
theorem Memory.mem_write {m : Memory} {a : Nat} {b : Byte} {c : Host.Cell} (h : c ∈ m.write a b) :
    (c = (a, b) ∧ b ≠ Config.unlistedByte) ∨ c ∈ m := by
  induction m with
  | nil => unfold Memory.write at h; split at h <;> simp_all
  | cons d m ih =>
    unfold Memory.write at h
    split at h
    · split at h
      · exact .inr h
      · rcases List.mem_cons.1 h with rfl | h
        · exact .inl ⟨rfl, ‹_›⟩
        · exact .inr h
    · split at h
      · split at h
        · exact .inr (List.mem_cons_of_mem _ h)
        · rcases List.mem_cons.1 h with rfl | h
          · exact .inl ⟨rfl, ‹_›⟩
          · exact .inr (List.mem_cons_of_mem _ h)
      · rcases List.mem_cons.1 h with rfl | h
        · exact .inr (List.mem_cons_self ..)
        · exact (ih h).imp_right (List.mem_cons_of_mem _)

/-- A write keeps the canonical form. -/
theorem Memory.write_wf (m : Memory) (a : Nat) (b : Byte) (h : Memory.wf m) : Memory.wf (m.write a b) := by
  refine ⟨?_, fun c hc => ?_⟩
  · have hp := h.1
    clear h
    induction m with
    | nil => unfold Memory.write; split <;> simp
    | cons d m ih =>
      have hd := List.pairwise_cons.1 hp
      unfold Memory.write
      split
      · rename_i hlt
        split
        · exact hp
        · refine List.pairwise_cons.2 ⟨fun e he => ?_, hp⟩
          rcases List.mem_cons.1 he with rfl | he
          · exact hlt
          · exact Nat.lt_trans hlt (hd.1 e he)
      · split
        · rename_i hda
          split
          · exact hd.2
          · exact List.pairwise_cons.2 ⟨fun e he => by simpa [← hda] using hd.1 e he, hd.2⟩
        · rename_i hge hne
          refine List.pairwise_cons.2 ⟨fun e he => ?_, ih hd.2⟩
          rcases Memory.mem_write he with ⟨rfl, -⟩ | he
          · change d.1 < a
            omega
          · exact hd.1 e he
  · rcases Memory.mem_write hc with ⟨rfl, hb⟩ | hc
    · exact hb
    · exact h.2 c hc

/-- `writeBytes` keeps the canonical form. -/
theorem Memory.writeBytes_wf (bs : List Byte) (m : Memory) (a : Nat) (h : Memory.wf m) :
    Memory.wf (m.writeBytes a bs) := by
  induction bs generalizing m a with
  | nil => exact h
  | cons b bs ih => exact ih _ _ (Memory.write_wf m a b h)

/-- The empty memory is in canonical form. -/
theorem Memory.nil_wf : Memory.wf [] := by decide

/-- `writeBytes` lists only addresses it wrote or that were listed before. -/
theorem Memory.mem_writeBytes (bs : List Byte) (m : Memory) (a : Nat) (c : Host.Cell)
    (h : c ∈ m.writeBytes a bs) : (a ≤ c.1 ∧ c.1 < a + bs.length) ∨ c ∈ m := by
  induction bs generalizing m a with
  | nil => exact .inr h
  | cons b bs ih =>
    rcases ih _ _ h with h | h
    · exact .inl (by rw [List.length_cons]; omega)
    · rcases Memory.mem_write h with ⟨rfl, -⟩ | h
      · exact .inl (by rw [List.length_cons]; omega)
      · exact .inr h

/-! ## Several bytes -/

/-- Outside the bytes written, every address reads as before. -/
theorem Memory.read_writeBytes_outside (bs : List Byte) (m : Memory) (a a' : Nat)
    (h : a' < a ∨ a + bs.length ≤ a') : (m.writeBytes a bs).read a' = m.read a' := by
  induction bs generalizing m a with
  | nil => rfl
  | cons b bs ih =>
    rw [List.length_cons] at h
    rw [Memory.writeBytes, ih _ _ (by omega), Memory.read_write_other _ _ _ _ (by omega)]

/-- The bytes written read back, each at its place. -/
theorem Memory.read_writeBytes_inside (bs : List Byte) (m : Memory) (a k : Nat) (hm : Memory.wf m)
    (hk : k < bs.length) : (m.writeBytes a bs).read (a + k) = bs[k] := by
  induction bs generalizing m a k with
  | nil => simp at hk
  | cons b bs ih =>
    rw [Memory.writeBytes]
    cases k with
    | zero =>
      rw [Memory.read_writeBytes_outside _ _ _ _ (by omega)]
      simpa using Memory.read_write_self m a b hm
    | succ k =>
      have := ih (m.write a b) (a + 1) k (Memory.write_wf m a b hm) (Nat.lt_of_succ_lt_succ hk)
      rw [show a + (k + 1) = a + 1 + k by omega, this]
      rfl

@[simp] theorem leBytes_length (n v : Nat) : (leBytes n v).length = n := by
  induction n generalizing v with
  | zero => rfl
  | succ n ih => simp [leBytes, ih]

/-- `readLE` depends only on the bytes it reads. -/
theorem Memory.readLE_congr {m m' : Memory} (n a : Nat) (h : ∀ k < n, m.read (a + k) = m'.read (a + k)) :
    m.readLE a n = m'.readLE a n := by
  induction n generalizing a with
  | zero => rfl
  | succ n ih =>
    have h0 := h 0 (by omega)
    simp only [Nat.add_zero] at h0
    rw [Memory.readLE, Memory.readLE, h0, ih (a + 1)]
    intro k hk
    have := h (k + 1) (by omega)
    rwa [show a + (k + 1) = a + 1 + k by omega] at this

/-- An n-byte integer is below 2^(8n). -/
theorem Memory.readLE_lt (m : Memory) (n a : Nat) : m.readLE a n < 256 ^ n := by
  induction n generalizing a with
  | zero => simp [Memory.readLE]
  | succ n ih =>
    have h := ih (a + 1)
    have hb := (m.read a).isLt
    rw [Memory.readLE, Nat.pow_succ]
    omega

end Sys2Proof.Machine
end

