-- ==== Sys2Proof/Laws/Ops.lean ====
section
/-! SUPPORT. What each shared operation of Machine/Ops.lean and each way a step begins can do, said once, so that a proof
about a command cites these and does not unfold the operation. -/

namespace Sys2Proof.Machine

variable (s : State)

/-! ## Decoder reads (R130) -/

@[simp] theorem State.finishRead_ok (rd : Reg) (v : Split64) (n : Nat) :
    s.finishRead rd (.ok (v, n)) =
      { s with x := s.x.set rd v, status := s.status.setFail false, pos := s.pos + BitVec.ofNat 32 n,
               cp := s.cp + 1#32 } := rfl

@[simp] theorem State.finishRead_error (rd : Reg) (e : DecodeError) :
    s.finishRead rd (.error e) = s.raiseDecodeError e := rfl

/-- A byte before END is read. -/
theorem State.decByte_inside (i : Nat) (h : s.pos.toNat + i < s.endAddr.toNat) :
    s.decByte i = .ok (s.byte (s.pos.toNat + i)) := if_neg (by omega)

/-- A byte at or past END is PAST_END. -/
theorem State.decByte_past (i : Nat) (h : s.endAddr.toNat ≤ s.pos.toNat + i) :
    s.decByte i = .error .pastEnd := if_pos h

/-- The only error of reading a byte is PAST_END. -/
theorem State.decByte_error {i : Nat} {e : DecodeError} (h : s.decByte i = .error e) : e = .pastEnd := by
  unfold State.decByte at h
  split at h <;> cases h
  rfl

/-- A byte that a read got lies before END. -/
theorem State.decByte_ok {i : Nat} {b : Byte} (h : s.decByte i = .ok b) :
    s.pos.toNat + i < s.endAddr.toNat ∧ b = s.byte (s.pos.toNat + i) := by
  unfold State.decByte at h
  split at h
  · cases h
  · exact ⟨by omega, by cases h; rfl⟩

/-- A fixed read inside the block gives the little-endian integer. -/
theorem State.fixRead_inside (n : Nat) (h : s.pos.toNat + n ≤ s.endAddr.toNat) :
    s.fixRead n = .ok (s.mem.readLE s.pos.toNat n) := if_neg (by omega)

/-- A fixed read that reaches past END is PAST_END. -/
theorem State.fixRead_past (n : Nat) (h : s.endAddr.toNat < s.pos.toNat + n) :
    s.fixRead n = .error .pastEnd := if_pos h

/-! ## Encoder writes (R53, R131) -/

/-- The bytes fit: they are written, WPOS moves past them, CP advances. -/
theorem State.emit_fits (w0 : Word) (bs : List Byte) (h : s.wpos.toNat + bs.length ≤ s.memBytes) :
    s.emit w0 bs = { s with mem := s.mem.writeBytes s.wpos.toNat bs,
                            wpos := s.wpos + BitVec.ofNat 32 bs.length, cp := s.cp + 1#32 } :=
  if_neg (by omega)

/-- The bytes do not fit: ENC_OVF and nothing else. -/
theorem State.emit_overflows (w0 : Word) (bs : List Byte) (h : s.memBytes < s.wpos.toNat + bs.length) :
    s.emit w0 bs = s.raiseFault .encOvf w0 := if_pos h

@[simp] theorem State.emitChecked_true (w0 : Word) (c : FaultCode) (bs : List Byte) :
    s.emitChecked w0 true c bs = s.emit w0 bs := rfl

@[simp] theorem State.emitChecked_false (w0 : Word) (c : FaultCode) (bs : List Byte) :
    s.emitChecked w0 false c bs = s.raiseFault c w0 := rfl

/-- Everything an encoder write can do. -/
theorem State.emitChecked_cases (w0 : Word) (ok : Bool) (c : FaultCode) (bs : List Byte) :
    (ok = false ∧ s.emitChecked w0 ok c bs = s.raiseFault c w0) ∨
    (ok = true ∧ s.memBytes < s.wpos.toNat + bs.length ∧ s.emitChecked w0 ok c bs = s.raiseFault .encOvf w0) ∨
    (ok = true ∧ s.wpos.toNat + bs.length ≤ s.memBytes ∧
      s.emitChecked w0 ok c bs = { s with mem := s.mem.writeBytes s.wpos.toNat bs,
                                          wpos := s.wpos + BitVec.ofNat 32 bs.length, cp := s.cp + 1#32 }) := by
  cases ok
  · exact .inl ⟨rfl, rfl⟩
  · by_cases h : s.memBytes < s.wpos.toNat + bs.length
    · exact .inr (.inl ⟨rfl, h, s.emit_overflows w0 bs h⟩)
    · exact .inr (.inr ⟨rfl, by omega, s.emit_fits w0 bs (by omega)⟩)

/-- WPOS after a write that fits does not wrap. -/
theorem State.wpos_add_toNat (n : Nat) (h : s.wpos.toNat + n ≤ s.memBytes) :
    (s.wpos + BitVec.ofNat 32 n).toNat = s.wpos.toNat + n := by
  have := s.memBytes_bounds
  rw [BitVec.toNat_add, BitVec.toNat_ofNat]
  omega

/-- POS after a read inside the block does not wrap. -/
theorem State.pos_add_toNat (n : Nat) (h : s.pos.toNat + n ≤ s.endAddr.toNat) :
    (s.pos + BitVec.ofNat 32 n).toNat = s.pos.toNat + n := by
  have := s.endAddr.isLt
  rw [BitVec.toNat_add, BitVec.toNat_ofNat]
  omega

/-! ## Control registers (R23, R32, R201) -/

/-- `cursorsOk` decides the invariant of R32. -/
theorem State.cursorsOk_iff : s.cursorsOk = true ↔ s.CursorInv := by
  simp only [State.cursorsOk, State.CursorInv, decide_eq_true_iff]

/-- A number that names a control register reads one, and no other does. -/
theorem State.readCr_isSome (cr : BitVec 8) : (s.readCr cr).isSome = crLegal cr := by
  have h : ∀ n : Nat, n < 256 → ((s.readCr (BitVec.ofNat 8 n)).isSome = crLegal (BitVec.ofNat 8 n)) := by
    intro n hn
    have e : (BitVec.ofNat 8 n).toNat = n := by simp; omega
    simp only [State.readCr, crLegal, e]
    rcases Nat.lt_or_ge n 9 with h9 | h9
    · interval_cases n <;> rfl
    · have : ¬ n ≤ 8 := by omega
      simp only [this, decide_false]
      split <;> first | omega | rfl
  have := h cr.toNat cr.isLt
  simpa using this

/-! ## What a step takes (R70, R73, R243, R275) -/

/-- Nothing sent: nothing happens. -/
theorem step_idle (h : s.input = []) : step s = .next s := by simp [step, State.take, h]

/-- A halted unit discards a word. -/
theorem step_halted (w : Word) (rest : List HostAction) (h : s.status.fault = true) :
    step (s.sent w rest) = .next { s with input := rest } := by
  simp [step, State.take, State.takeWord, State.sent, h]

/-- A ready unit runs a one-word command, or takes the ILLEGAL fault. -/
theorem step_oneWord (w : Word) (rest : List HostAction) (h : s.ready) (hw : isTwoWord w = false) :
    step (s.sent w rest) =
      match decodeFields (fieldsOf w) 0#32 with
      | .ok i => exec i { s with input := rest }
      | .error _ => .next (({ s with input := rest } : State).raiseFault .illegal w) := by
  obtain ⟨h1, h2⟩ := h
  cases hd : decodeFields (fieldsOf w) 0#32 <;>
    simp [step, State.take, State.takeWord, State.sent, h1, h2, hw, decode, hd, Except.map]

/-- A ready unit with both words of a two-word command at the port runs it, or takes the ILLEGAL fault. -/
theorem step_twoWords (w w1 : Word) (rest : List HostAction) (h : s.ready) (hw : isTwoWord w = true) :
    step (s.sent w (.word w1 :: rest)) =
      match decodeFields (fieldsOf w) w1 with
      | .ok i => exec i { s with input := rest }
      | .error _ => .next (({ s with input := rest } : State).raiseFault .illegal w) := by
  obtain ⟨h1, h2⟩ := h
  cases hd : decodeFields (fieldsOf w) w1 <;>
    simp [step, State.take, State.takeWord, State.sent, h1, h2, hw, decode, hd, Except.map]

/-- Word 0 of a two-word command with no word behind it goes to the latch. -/
theorem step_latches (w : Word) (rest : List HostAction) (h : s.ready) (hw : isTwoWord w = true)
    (hr : ∀ w1 rest', rest ≠ .word w1 :: rest') :
    step (s.sent w rest) = .next { s with latch := some w, input := rest } := by
  obtain ⟨h1, h2⟩ := h
  simp only [step, State.take, State.takeWord, State.sent, h1, h2, hw]
  cases rest with
  | nil => rfl
  | cons a rest =>
    cases a with
    | word w1 => exact absurd rfl (hr w1 rest)
    | memWrite _ _ => rfl
    | reset => rfl

/-- A full latch makes the next word word 1, whatever its value (R275). -/
theorem step_latched (w0 w1 : Word) (rest : List HostAction) (hf : s.status.fault = false) (hl : s.latch = some w0) :
    step (s.sent w1 rest) =
      match decode [w0, w1] with
      | .ok (i, _) => exec i { s with latch := none, input := rest }
      | .error _ => .next (({ s with latch := none, input := rest } : State).raiseFault .illegal w0) := by
  cases hd : decode [w0, w1] <;> simp [step, State.take, State.takeWord, State.sent, hf, hl, hd]

/-- A memory-port write to a byte of MEM, the unit idle (R60). -/
theorem step_memWrite (a : Word) (b : Byte) (rest : List HostAction) (hl : s.latch = none) (ha : a.toNat < s.memBytes) :
    step { s with input := .memWrite a b :: rest } = .next { s with mem := s.mem.write a.toNat b, input := rest } := by
  have h : a.toNat < s.cfg.memBytes := ha
  simp [step, State.take, State.takeMemWrite, State.idle, hl, h]

/-- A memory-port write outside MEM (log 5). -/
theorem step_memWrite_outside (a : Word) (b : Byte) (rest : List HostAction) (hl : s.latch = none)
    (ha : s.memBytes ≤ a.toNat) : step { s with input := .memWrite a b :: rest } = .fault (.noSuchByte a.toNat) := by
  have h : ¬a.toNat < s.cfg.memBytes := Nat.not_lt.2 ha
  simp [step, State.take, State.takeMemWrite, State.idle, hl, h]

/-- A memory-port write while the latch is full (log 4). -/
theorem step_memWrite_busy (a : Word) (b : Byte) (rest : List HostAction) (hl : s.latch ≠ none) :
    step { s with input := .memWrite a b :: rest } = .refused .portNotIdle := by
  obtain ⟨w, hw⟩ := Option.ne_none_iff_exists'.1 hl
  simp [step, State.take, State.takeMemWrite, State.idle, hw]

/-- Reset, whatever the unit was doing. -/
theorem step_reset (rest : List HostAction) :
    step { s with input := .reset :: rest } = .next { s.resetUnit with input := rest } := rfl

end Sys2Proof.Machine
end

