-- ==== Sys2Proof/Laws/Scan.lean ====
section
/-! SUPPORT. The two varint scans (41_varint.md R133, R134): how many bytes a scan takes, that the last of them was read,
that it depends on its first ten bytes only, and which errors it raises. -/

namespace Sys2Proof.Machine

variable {get get' : Nat → Except DecodeError Byte}

/-! ## The 32-bit scan -/

theorem scanFifth_ok {x y : Word} {n : Nat} (h : scanFifth get x = .ok (y, n)) :
    (n = 5 ∨ n = 10) ∧ ∃ b, get (n - 1) = .ok b := by
  unfold scanFifth at h
  split at h
  · cases h
  · rename_i b hb
    dsimp only at h
    split at h
    · split at h
      · cases h
        exact ⟨.inl rfl, b, hb⟩
      · cases h
    · split at h
      · split at h
        · cases h
        · unfold scanSignLast at h
          split at h
          · cases h
          · rename_i b9 hb9
            split at h
            · cases h
            · split at h
              · cases h
                exact ⟨.inr rfl, b9, hb9⟩
              · cases h
      · cases h

theorem scanHead_ok {k i n : Nat} {x y : Word} (hk : i + k = 4) (h : scanHead get k i x = .ok (y, n)) :
    i + 1 ≤ n ∧ n ≤ 10 ∧ ∃ b, get (n - 1) = .ok b := by
  induction k generalizing i x with
  | zero =>
    obtain ⟨h1, h2⟩ := scanFifth_ok h
    exact ⟨by omega, by omega, h2⟩
  | succ k ih =>
    unfold scanHead at h
    split at h
    · cases h
    · rename_i b hb
      dsimp only at h
      split at h
      · cases h
        exact ⟨by omega, by omega, b, hb⟩
      · obtain ⟨h1, h2, h3⟩ := ih (by omega) h
        exact ⟨by omega, h2, h3⟩

/-- A 32-bit scan that succeeds takes 1 to 10 bytes, all of which it got. -/
theorem varint32Scan_ok {x : Word} {n : Nat} (h : varint32Scan get = .ok (x, n)) :
    1 ≤ n ∧ n ≤ 10 ∧ ∃ b, get (n - 1) = .ok b := scanHead_ok (by decide) h

theorem scanSignBytes_congr (k i : Nat) (h : ∀ j, i ≤ j → j < i + k → get j = get' j) :
    scanSignBytes get k i = scanSignBytes get' k i := by
  induction k generalizing i with
  | zero => rfl
  | succ k ih =>
    unfold scanSignBytes
    rw [h i (by omega) (by omega), ih (i + 1) fun j h1 h2 => h j (by omega) (by omega)]

theorem scanHead_congr (k i : Nat) (x : Word) (hk : i + k = 4) (h : ∀ j < 10, get j = get' j) :
    scanHead get k i x = scanHead get' k i x := by
  induction k generalizing i x with
  | zero =>
    unfold scanHead scanFifth scanSignLast
    rw [h 4 (by omega), h 9 (by omega), scanSignBytes_congr 4 5 fun j _ h2 => h j (by omega)]
  | succ k ih =>
    unfold scanHead
    simp only [h i (by omega), ih (i + 1) _ (by omega)]

/-- A 32-bit scan looks at no byte beyond the tenth. -/
theorem varint32Scan_congr (h : ∀ j < 10, get j = get' j) : varint32Scan get = varint32Scan get' :=
  scanHead_congr 4 0 _ (by decide) h

/-! ## The 64-bit scan -/

theorem scanWide_ok {k i n : Nat} {l r : Word} {v : Split64} (h : scanWide get k i l r = .ok (v, n)) :
    i + 1 ≤ n ∧ n ≤ i + k ∧ ∃ b, get (n - 1) = .ok b := by
  induction k generalizing i l r with
  | zero => cases h
  | succ k ih =>
    unfold scanWide at h
    split at h
    · cases h
    · rename_i b hb
      dsimp only at h
      split at h
      · cases h
        exact ⟨by omega, by omega, b, hb⟩
      · obtain ⟨h1, h2, h3⟩ := ih h
        exact ⟨by omega, by omega, h3⟩

/-- A 64-bit scan that succeeds takes 1 to 10 bytes, all of which it got. -/
theorem varint64Scan_ok {v : Split64} {n : Nat} (h : varint64Scan get = .ok (v, n)) :
    1 ≤ n ∧ n ≤ 10 ∧ ∃ b, get (n - 1) = .ok b := by
  obtain ⟨h1, h2, h3⟩ := scanWide_ok h
  exact ⟨by omega, by omega, h3⟩

theorem scanWide_congr (k i : Nat) (l r : Word) (h : ∀ j, i ≤ j → j < i + k → get j = get' j) :
    scanWide get k i l r = scanWide get' k i l r := by
  induction k generalizing i l r with
  | zero => rfl
  | succ k ih =>
    unfold scanWide
    simp only [h i (by omega) (by omega), ih (i + 1) _ _ fun j h1 h2 => h j (by omega) (by omega)]

/-- A 64-bit scan looks at no byte beyond the tenth. -/
theorem varint64Scan_congr (h : ∀ j < 10, get j = get' j) : varint64Scan get = varint64Scan get' :=
  scanWide_congr 10 0 _ _ fun j _ h2 => h j (by omega)

/-! ## The errors of the scans -/

theorem scanSignBytes_error (hg : ∀ j e, get j = .error e → e = .pastEnd) {k i : Nat} {e : DecodeError}
    (h : scanSignBytes get k i = .error e) : e = .pastEnd ∨ e = .varint32Bad := by
  induction k generalizing i with
  | zero => cases h
  | succ k ih =>
    unfold scanSignBytes at h
    split at h
    · cases h
      exact .inl (hg i e ‹_›)
    · split at h
      · exact ih h
      · cases h
        exact .inr rfl

theorem scanFifth_error (hg : ∀ j e, get j = .error e → e = .pastEnd) {x : Word} {e : DecodeError}
    (h : scanFifth get x = .error e) : e = .pastEnd ∨ e = .varintLong ∨ e = .varint32Bad := by
  unfold scanFifth at h
  split at h
  · cases h
    exact .inl (hg 4 e ‹_›)
  · dsimp only at h
    split at h
    · split at h <;> cases h
      exact .inr (.inr rfl)
    · split at h
      · split at h
        · rename_i hs
          cases h
          exact (scanSignBytes_error hg hs).imp_right .inr
        · unfold scanSignLast at h
          split at h
          · cases h
            exact .inl (hg 9 e ‹_›)
          · split at h
            · cases h
              exact .inr (.inl rfl)
            · split at h <;> cases h
              exact .inr (.inr rfl)
      · cases h
        exact .inr (.inr rfl)

theorem scanHead_error (hg : ∀ j e, get j = .error e → e = .pastEnd) {k i : Nat} {x : Word} {e : DecodeError}
    (h : scanHead get k i x = .error e) : e = .pastEnd ∨ e = .varintLong ∨ e = .varint32Bad := by
  induction k generalizing i x with
  | zero => exact scanFifth_error hg h
  | succ k ih =>
    unfold scanHead at h
    split at h
    · cases h
      exact .inl (hg i e ‹_›)
    · dsimp only at h
      split at h
      · cases h
      · exact ih h

theorem scanWide_error (hg : ∀ j e, get j = .error e → e = .pastEnd) {k i : Nat} {l r : Word} {e : DecodeError}
    (h : scanWide get k i l r = .error e) : e = .pastEnd ∨ e = .varintLong := by
  induction k generalizing i l r with
  | zero =>
    cases h
    exact .inr rfl
  | succ k ih =>
    unfold scanWide at h
    split at h
    · cases h
      exact .inl (hg i e ‹_›)
    · dsimp only at h
      split at h
      · cases h
      · exact ih h

/-- A 32-bit scan of the bytes at POS raises PAST_END, VARINT_LONG or VARINT32_BAD, no other error. -/
theorem State.varint32_error (s : State) {e : DecodeError} (h : varint32Scan s.decByte = .error e) :
    e = .pastEnd ∨ e = .varintLong ∨ e = .varint32Bad := scanHead_error (fun _ _ => s.decByte_error) h

/-- A 64-bit scan of the bytes at POS raises PAST_END or VARINT_LONG, no other error. -/
theorem State.varint64_error (s : State) {e : DecodeError} (h : varint64Scan s.decByte = .error e) :
    e = .pastEnd ∨ e = .varintLong := scanWide_error (fun _ _ => s.decByte_error) h

/-! ## Scans of the bytes at POS -/

/-- A 32-bit scan that succeeds takes 1 to 10 bytes, all before END. -/
theorem State.varint32_bound (s : State) {x : Word} {n : Nat} (h : varint32Scan s.decByte = .ok (x, n)) :
    1 ≤ n ∧ n ≤ 10 ∧ s.pos.toNat + n ≤ s.endAddr.toNat := by
  obtain ⟨h1, h2, b, hb⟩ := varint32Scan_ok h
  have := (s.decByte_ok hb).1
  exact ⟨h1, h2, by omega⟩

/-- A 64-bit scan that succeeds takes 1 to 10 bytes, all before END. -/
theorem State.varint64_bound (s : State) {v : Split64} {n : Nat} (h : varint64Scan s.decByte = .ok (v, n)) :
    1 ≤ n ∧ n ≤ 10 ∧ s.pos.toNat + n ≤ s.endAddr.toNat := by
  obtain ⟨h1, h2, b, hb⟩ := varint64Scan_ok h
  have := (s.decByte_ok hb).1
  exact ⟨h1, h2, by omega⟩

/-! ## How the decoder reads end -/

/-- Everything a 32-bit varint read can do. -/
theorem State.readVarint32_cases (s : State) (rd : Reg) (f : Word → Split64) :
    (∃ x n, varint32Scan s.decByte = .ok (x, n) ∧ 1 ≤ n ∧ n ≤ 10 ∧ s.pos.toNat + n ≤ s.endAddr.toNat ∧
      s.readVarint32 rd f = s.finishRead rd (.ok (f x, n))) ∨
    (∃ e, varint32Scan s.decByte = .error e ∧ s.readVarint32 rd f = s.raiseDecodeError e) := by
  unfold State.readVarint32
  cases h : varint32Scan s.decByte with
  | error e => exact .inr ⟨e, rfl, rfl⟩
  | ok p =>
    obtain ⟨x, n⟩ := p
    obtain ⟨h1, h2, h3⟩ := s.varint32_bound h
    exact .inl ⟨x, n, rfl, h1, h2, h3, rfl⟩

/-- Everything a 64-bit varint read can do. -/
theorem State.readVarint64_cases (s : State) (rd : Reg) (f : Split64 → Split64) :
    (∃ v n, varint64Scan s.decByte = .ok (v, n) ∧ 1 ≤ n ∧ n ≤ 10 ∧ s.pos.toNat + n ≤ s.endAddr.toNat ∧
      s.readVarint64 rd f = s.finishRead rd (.ok (f v, n))) ∨
    (∃ e, varint64Scan s.decByte = .error e ∧ s.readVarint64 rd f = s.raiseDecodeError e) := by
  unfold State.readVarint64
  cases h : varint64Scan s.decByte with
  | error e => exact .inr ⟨e, rfl, rfl⟩
  | ok p =>
    obtain ⟨v, n⟩ := p
    obtain ⟨h1, h2, h3⟩ := s.varint64_bound h
    exact .inl ⟨v, n, rfl, h1, h2, h3, rfl⟩

/-- Everything a fixed read can do. -/
theorem State.readFixed_cases (s : State) (rd : Reg) (n : Nat) (f : Nat → Split64) :
    (s.pos.toNat + n ≤ s.endAddr.toNat ∧
      s.readFixed rd n f = s.finishRead rd (.ok (f (s.mem.readLE s.pos.toNat n), n))) ∨
    (s.endAddr.toNat < s.pos.toNat + n ∧ s.readFixed rd n f = s.raiseDecodeError .pastEnd) := by
  unfold State.readFixed
  by_cases h : s.endAddr.toNat < s.pos.toNat + n
  · exact .inr ⟨h, by rw [s.fixRead_past n h]; rfl⟩
  · exact .inl ⟨by omega, by rw [s.fixRead_inside n (by omega)]; rfl⟩

/-- Everything NEXTF can do. -/
theorem execNextf_cases (rd : Reg) (s : State) :
    (s.pos = s.endAddr ∧ execNextf rd s =
      .next { s with x := s.x.set rd 0#64, tag := 0#32, cp := s.cp + 1#32,
                     status := (s.status.setFvalid false).setFail false }) ∨
    (s.pos ≠ s.endAddr ∧ ∃ e, checkTag (varint32Scan s.decByte) = .error e ∧ execNextf rd s =
      .next (({ s with status := s.status.setFvalid false } : State).raiseDecodeError e)) ∨
    (s.pos ≠ s.endAddr ∧ ∃ t n, varint32Scan s.decByte = .ok (t, n) ∧ 1 ≤ n ∧ n ≤ 10 ∧
      s.pos.toNat + n ≤ s.endAddr.toNat ∧ (tagWireType t).toNat ≤ 5 ∧ tagField t ≠ 0#29 ∧ execNextf rd s =
      .next { s with x := s.x.set rd (tagResult t), tag := t, pos := s.pos + BitVec.ofNat 32 n, cp := s.cp + 1#32,
                     status := (s.status.setFvalid true).setFail false }) := by
  unfold execNextf
  by_cases h : s.pos = s.endAddr
  · exact .inl ⟨h, by rw [if_pos h]; rfl⟩
  · refine .inr ?_
    rw [if_neg h]
    cases hc : checkTag (varint32Scan s.decByte) with
    | error e => exact .inl ⟨h, e, rfl, rfl⟩
    | ok p =>
      obtain ⟨t, n⟩ := p
      refine .inr ⟨h, t, n, ?_⟩
      cases hs : varint32Scan s.decByte with
      | error e => rw [hs] at hc; cases hc
      | ok q =>
        obtain ⟨t', n'⟩ := q
        rw [hs] at hc
        unfold checkTag at hc
        dsimp only at hc
        split at hc
        · cases hc
        · split at hc
          · cases hc
          · rename_i hw hf
            cases hc
            obtain ⟨h1, h2, h3⟩ := s.varint32_bound hs
            exact ⟨rfl, h1, h2, h3, by omega, hf, rfl⟩

end Sys2Proof.Machine
end

