-- ==== Sys2Proof/Laws/Exec.lean ====
section
/-! SUPPORT. Everything a command can do, said once: exec answers a next state, and that state is one of the few below. A
frame or an invariant over all commands is a case analysis over `Ends`. -/

namespace Sys2Proof.Machine

open Sys2Proof.Claims

/-- How a command ends. -/
inductive Ends (i : Instr) (s : State) : State → Prop
  /-- a contract fault (R242) -/
  | fault (c : FaultCode) : Ends i s (s.raiseFault c i.word0)
  /-- one general register, from registers alone -/
  | result (rd : Reg) (v : Split64) (hd : dests i = [rd]) (hr : canDecodeError i = false) (hw : isWrite i = false)
      (hf : writesFail i = false) : Ends i s ((s.setReg rd v).advance i.length)
  /-- DIV by zero (R104) -/
  | divZero (rd rs3 rs1 rs2 : Reg) (hi : i = .div rd rs3 rs1 rs2) (h0 : lo (s.reg rs2) = 0#32) :
      Ends i s ({ s with status := s.status.setFail true }.advance 1)
  /-- DIV -/
  | div (rd rs3 rs1 rs2 : Reg) (v w : Split64) (hi : i = .div rd rs3 rs1 rs2) (h0 : lo (s.reg rs2) ≠ 0#32) :
      Ends i s ({ (s.setReg rd v).setReg rs3 w with status := s.status.setFail false }.advance 1)
  /-- WTCHK that passes -/
  | pass (wt : BitVec 8) (hi : i = .wtchk wt) : Ends i s (s.advance 1)
  /-- MTCR of a cursor (R201) -/
  | cursor (cr : BitVec 8) (r : Reg) (t : State) (hi : i = .mtcr cr r) (ht : s.writeCursor cr (lo (s.reg r)) = some t)
      (hc : t.CursorInv) : Ends i s (t.advance 1)
  /-- SETBLK (R202) -/
  | block (a n : Reg) (hi : i = .setblk a n) (h : u (s.reg a) + u (s.reg n) ≤ s.memBytes) :
      Ends i s ({ s with
        start := BitVec.ofNat 32 (u (s.reg a)), pos := BitVec.ofNat 32 (u (s.reg a)),
        endAddr := BitVec.ofNat 32 (u (s.reg a) + u (s.reg n)), status := s.status.newBlock, tag := 0#32 }.advance 1)
  /-- ADV (R203) -/
  | moved (a : Reg) (hi : i = .adv a) (h : s.pos.toNat + u (s.reg a) ≤ s.endAddr.toNat) :
      Ends i s (({ s with status := s.status.setFail false }.advancePos (u (s.reg a))).advance 1)
  /-- a decoder read that succeeds (R130) -/
  | read (rd : Reg) (v : Split64) (n : Nat) (hi : isRead i = true) (hd : dests i = [rd]) (h1 : 1 ≤ n) (h10 : n ≤ 10)
      (h : s.pos.toNat + n ≤ s.endAddr.toNat) : Ends i s (s.finishRead rd (.ok (v, n)))
  /-- a decode error (R244) of a read or ADV -/
  | error (e : DecodeError) (hi : canDecodeError i = true) (hn : ∀ rd, i ≠ .nextf rd) : Ends i s (s.raiseDecodeError e)
  /-- NEXTF at the end of the block (R222) -/
  | noField (rd : Reg) (hi : i = .nextf rd) (h : s.pos = s.endAddr) :
      Ends i s { s with x := s.x.set rd 0#64, tag := 0#32, cp := s.cp + 1#32,
                        status := (s.status.setFvalid false).setFail false }
  /-- NEXTF on an invalid tag -/
  | badField (rd : Reg) (e : DecodeError) (hi : i = .nextf rd) :
      Ends i s (({ s with status := s.status.setFvalid false } : State).raiseDecodeError e)
  /-- NEXTF that reads a tag -/
  | field (rd : Reg) (t : Word) (n : Nat) (hi : i = .nextf rd) (h1 : 1 ≤ n) (h10 : n ≤ 10)
      (h : s.pos.toNat + n ≤ s.endAddr.toNat) (hw : (tagWireType t).toNat ≤ 5) (hf : tagField t ≠ 0#29) :
      Ends i s { s with x := s.x.set rd (tagResult t), tag := t, pos := s.pos + BitVec.ofNat 32 n, cp := s.cp + 1#32,
                        status := (s.status.setFvalid true).setFail false }
  /-- an encoder write that succeeds (R131) -/
  | wrote (bs : List Byte) (hi : isWrite i = true) (h : s.wpos.toNat + bs.length ≤ s.memBytes) :
      Ends i s { s with mem := s.mem.writeBytes s.wpos.toNat bs, wpos := s.wpos + BitVec.ofNat 32 bs.length,
                        cp := s.cp + 1#32 }

/-! ## One lemma per shape -/

variable (s : State)

theorem Ends.of_readVarint32 {i : Instr} (rd : Reg) (f : Word → Split64) (hi : isRead i = true) (hd : dests i = [rd])
    (hn : ∀ r, i ≠ .nextf r) (hc : canDecodeError i = true) : Ends i s (s.readVarint32 rd f) := by
  obtain ⟨x, n, -, h1, h10, h, e⟩ | ⟨er, -, e⟩ := s.readVarint32_cases rd f
  · exact e ▸ .read rd (f x) n hi hd h1 h10 h
  · exact e ▸ .error er hc hn

theorem Ends.of_readVarint64 {i : Instr} (rd : Reg) (f : Split64 → Split64) (hi : isRead i = true) (hd : dests i = [rd])
    (hn : ∀ r, i ≠ .nextf r) (hc : canDecodeError i = true) : Ends i s (s.readVarint64 rd f) := by
  obtain ⟨x, n, -, h1, h10, h, e⟩ | ⟨er, -, e⟩ := s.readVarint64_cases rd f
  · exact e ▸ .read rd (f x) n hi hd h1 h10 h
  · exact e ▸ .error er hc hn

theorem Ends.of_readFixed {i : Instr} (rd : Reg) (n : Nat) (f : Nat → Split64) (h1 : 1 ≤ n) (h10 : n ≤ 10)
    (hi : isRead i = true) (hd : dests i = [rd]) (hn : ∀ r, i ≠ .nextf r) (hc : canDecodeError i = true) :
    Ends i s (s.readFixed rd n f) := by
  obtain ⟨h, e⟩ | ⟨-, e⟩ := s.readFixed_cases rd n f
  · exact e ▸ .read rd _ n hi hd h1 h10 h
  · exact e ▸ .error .pastEnd hc hn

theorem Ends.of_emitChecked {i : Instr} (ok : Bool) (c : FaultCode) (bs : List Byte) (hi : isWrite i = true) :
    Ends i s (s.emitChecked i.word0 ok c bs) := by
  obtain ⟨-, e⟩ | ⟨-, -, e⟩ | ⟨-, h, e⟩ := s.emitChecked_cases i.word0 ok c bs
  · exact e ▸ .fault c
  · exact e ▸ .fault .encOvf
  · exact e ▸ .wrote bs hi h

theorem Ends.of_emit {i : Instr} (bs : List Byte) (hi : isWrite i = true) : Ends i s (s.emit i.word0 bs) :=
  Ends.of_emitChecked s true .encOvf bs hi

/-- Everything `exec` can do. -/
theorem exec_ends (i : Instr) : ∃ t, exec i s = .next t ∧ Ends i s t := by
  cases i
  case div rd rs3 rs1 rs2 =>
    by_cases h : lo (s.reg rs2) = 0#32
    · exact ⟨_, if_pos h, .divZero rd rs3 rs1 rs2 rfl h⟩
    · exact ⟨_, if_neg h, .div rd rs3 rs1 rs2 _ _ rfl h⟩
  case mfcr rd cr =>
    simp only [exec, execMfcr]
    split
    · exact ⟨_, rfl, .result rd _ rfl rfl rfl rfl⟩
    · exact ⟨_, rfl, .fault .illegal⟩
  case mtcr cr r =>
    simp only [exec, execMtcr]
    split
    · split
      · exact ⟨_, rfl, .fault .cfg⟩
      · rename_i t ht
        split
        · rename_i h
          exact ⟨_, rfl, .cursor cr r t rfl ht (t.cursorsOk_iff.1 h.2)⟩
        · exact ⟨_, rfl, .fault .cfg⟩
    · exact ⟨_, rfl, .fault .illegal⟩
  case setblk a n =>
    by_cases h : s.memBytes < u (s.reg a) + u (s.reg n)
    · exact ⟨_, if_pos h, .fault .cfg⟩
    · exact ⟨_, if_neg h, .block a n rfl (by omega)⟩
  case adv a =>
    by_cases h : s.endAddr.toNat < s.pos.toNat + u (s.reg a)
    · exact ⟨_, if_pos h, .error .pastEnd rfl (fun _ => Instr.noConfusion)⟩
    · exact ⟨_, if_neg h, .moved a rfl (by omega)⟩
  case nextf rd =>
    obtain ⟨h, e⟩ | ⟨-, er, -, e⟩ | ⟨-, t, n, -, h1, h10, h, hw, hf, e⟩ := execNextf_cases rd s
    · exact ⟨_, e, .noField rd rfl h⟩
    · exact ⟨_, e, .badField rd er rfl⟩
    · exact ⟨_, e, .field rd t n rfl h1 h10 h hw hf⟩
  case wtchk wt =>
    simp only [exec, execWtchk]
    split
    · split
      · exact ⟨_, rfl, .fault .wireType⟩
      · exact ⟨_, rfl, .pass wt rfl⟩
    · exact ⟨_, rfl, .fault .illegal⟩
  case wtag r wt =>
    simp only [exec, execWtag]
    split
    · exact ⟨_, rfl, Ends.of_emitChecked s _ _ _ rfl⟩
    · exact ⟨_, rfl, .fault .illegal⟩
  case' add rd _ _ | sub rd _ _ | mul rd _ _ | cmpu rd _ _ | cmps rd _ _ | shl rd _ | shr rd _ | iszero rd _
    | msb rd _ | lsb rd _ | zze64 rd _ | zzd64 rd _ | zze32 rd _ | zzd32 rd _ | mov rd _ | ldlo rd _ | ldhi rd _
    | f64tof32 rd _ | f32tof64 rd _ | atend rd => exact ⟨_, rfl, .result rd _ rfl rfl rfl rfl⟩
  case' rvu32 rd | rvs32 rd | rvz32 rd =>
    exact ⟨_, rfl, Ends.of_readVarint32 s rd _ rfl rfl (fun _ => Instr.noConfusion) rfl⟩
  case' rv64 rd | rvz64 rd => exact ⟨_, rfl, Ends.of_readVarint64 s rd _ rfl rfl (fun _ => Instr.noConfusion) rfl⟩
  case' rfu8 rd | rfs8 rd | rfu16 rd | rfs16 rd | rfu32 rd | rfs32 rd | rf64 rd | rflt rd | rdbl rd =>
    exact ⟨_, rfl, Ends.of_readFixed s rd _ _ (by decide) (by decide) rfl rfl (fun _ => Instr.noConfusion) rfl⟩
  case' wvu32 r | wvs32 r | wvz32 r | wfu8 r | wfs8 r | wfu16 r | wfs16 r | wfu32 r | wfs32 r =>
    exact ⟨_, rfl, Ends.of_emitChecked s _ _ _ rfl⟩
  case' wv64 r | wvz64 r | wf64 r | wflt r | wdbl r => exact ⟨_, rfl, Ends.of_emit s _ rfl⟩

/-- A next state of `exec` is one of the ends. -/
theorem exec_ends_of_next {i : Instr} {t : State} (h : exec i s = .next t) : Ends i s t := by
  obtain ⟨t', h1, h2⟩ := exec_ends s i
  rw [h1] at h
  cases h
  exact h2

end Sys2Proof.Machine
end

