-- ==== Sys2Proof/Laws/Operands.lean ====
section
/-! SUPPORT. The readings of a register by halves and as a whole (00_scope.md R7): the whole-value readings are those of
the bit vector, and halves taken apart and put together are the register. -/

namespace Sys2Proof.Machine

theorem lo_toNat (v : Split64) : (lo v).toNat = v.toNat % 2 ^ 32 := by
  simp [lo]

theorem hi_toNat (v : Split64) : (hi v).toNat = v.toNat / 2 ^ 32 := by
  have := v.isLt
  rw [hi, BitVec.extractLsb'_toNat, Nat.shiftRight_eq_div_pow, Nat.mod_eq_of_lt (by omega)]

theorem join_toNat (l h : Word) : (join l h).toNat = h.toNat * 2 ^ 32 + l.toNat := by
  rw [join, BitVec.toNat_append, ← Nat.shiftLeft_add_eq_or_of_lt l.isLt, Nat.shiftLeft_eq]

/-- `u` is the unsigned reading of the whole register. -/
@[simp] theorem u_eq_toNat (v : Split64) : u v = v.toNat := by
  rw [u, lo_toNat, hi_toNat]
  omega

/-- `sgn` is the signed reading of the whole register. -/
@[simp] theorem sgn_eq_toInt (v : Split64) : sgn v = v.toInt := by
  have hm : v.getLsbD 63 = v.msb := by simp [BitVec.msb, BitVec.getMsbD]
  rw [sgn, u_eq_toNat, hm, BitVec.toInt_eq_msb_cond]
  rfl

@[simp] theorem lo_join (l h : Word) : lo (join l h) = l := by
  apply BitVec.eq_of_toNat_eq
  have := l.isLt
  rw [lo_toNat, join_toNat]
  omega

@[simp] theorem hi_join (l h : Word) : hi (join l h) = h := by
  apply BitVec.eq_of_toNat_eq
  have := l.isLt
  rw [hi_toNat, join_toNat]
  omega

@[simp] theorem join_lo_hi (v : Split64) : join (lo v) (hi v) = v := by
  apply BitVec.eq_of_toNat_eq
  rw [join_toNat, lo_toNat, hi_toNat]
  omega

/-- A condition as an integer. -/
theorem bit_eq (b : Bool) : bit b = if b then 1#64 else 0#64 := by cases b <;> rfl

end Sys2Proof.Machine
end

