-- ==== Sys2Proof/Laws/PerInstr.lean ====
section
/-! SUPPORT. Statements about every command as syntax, one lemma per constructor: the family CommandLength (30_encoding.md
R73). -/

namespace Sys2Proof.Laws.CommandLength

/-- R73 of one command: word 0 alone says how many words it takes, and that is 1 or 2. -/
def Statement (i : Instr) : Prop :=
  (isTwoWord i.word0 = true ↔ i.length = 2) ∧ (isTwoWord i.word0 = false ↔ i.length = 1)

/-- A command whose op is neither 0x11 nor 0x12. -/
theorem oneWord {i : Instr} {op imm : BitVec 8} {rd rs1 rs2 rs3 : Reg} (h : i.word0 = encodeR op rd rs1 rs2 rs3 imm)
    (ho : (op == 0x11#8 || op == 0x12#8) = false) (hl : i.length = 1) : Statement i := by
  simp [Statement, isTwoWord, h, ho, hl]

/-- A command whose op is 0x11 or 0x12. -/
theorem twoWords {i : Instr} {op imm : BitVec 8} {rd rs1 rs2 rs3 : Reg} (h : i.word0 = encodeR op rd rs1 rs2 rs3 imm)
    (ho : (op == 0x11#8 || op == 0x12#8) = true) (hl : i.length = 2) : Statement i := by
  simp [Statement, isTwoWord, h, ho, hl]

theorem add (rd rs1 rs2 : Reg) : Statement (.add rd rs1 rs2) := oneWord rfl rfl rfl
theorem sub (rd rs1 rs2 : Reg) : Statement (.sub rd rs1 rs2) := oneWord rfl rfl rfl
theorem mul (rd rs1 rs2 : Reg) : Statement (.mul rd rs1 rs2) := oneWord rfl rfl rfl
theorem div (rd rs3 rs1 rs2 : Reg) : Statement (.div rd rs3 rs1 rs2) := oneWord rfl rfl rfl
theorem shl (rd rs1 : Reg) : Statement (.shl rd rs1) := oneWord rfl rfl rfl
theorem shr (rd rs1 : Reg) : Statement (.shr rd rs1) := oneWord rfl rfl rfl
theorem cmpu (rd rs1 rs2 : Reg) : Statement (.cmpu rd rs1 rs2) := oneWord rfl rfl rfl
theorem cmps (rd rs1 rs2 : Reg) : Statement (.cmps rd rs1 rs2) := oneWord rfl rfl rfl
theorem iszero (rd rs1 : Reg) : Statement (.iszero rd rs1) := oneWord rfl rfl rfl
theorem msb (rd rs1 : Reg) : Statement (.msb rd rs1) := oneWord rfl rfl rfl
theorem lsb (rd rs1 : Reg) : Statement (.lsb rd rs1) := oneWord rfl rfl rfl
theorem zze64 (rd rs1 : Reg) : Statement (.zze64 rd rs1) := oneWord rfl rfl rfl
theorem zzd64 (rd rs1 : Reg) : Statement (.zzd64 rd rs1) := oneWord rfl rfl rfl
theorem zze32 (rd rs1 : Reg) : Statement (.zze32 rd rs1) := oneWord rfl rfl rfl
theorem zzd32 (rd rs1 : Reg) : Statement (.zzd32 rd rs1) := oneWord rfl rfl rfl
theorem mov (rd rs1 : Reg) : Statement (.mov rd rs1) := oneWord rfl rfl rfl
theorem ldlo (rd : Reg) (imm : Word) : Statement (.ldlo rd imm) := twoWords rfl rfl rfl
theorem ldhi (rd : Reg) (imm : Word) : Statement (.ldhi rd imm) := twoWords rfl rfl rfl
theorem f64tof32 (rd rs1 : Reg) : Statement (.f64tof32 rd rs1) := oneWord rfl rfl rfl
theorem f32tof64 (rd rs1 : Reg) : Statement (.f32tof64 rd rs1) := oneWord rfl rfl rfl
theorem mfcr (rd : Reg) (cr : BitVec 8) : Statement (.mfcr rd cr) := oneWord rfl rfl rfl
theorem mtcr (cr : BitVec 8) (rs1 : Reg) : Statement (.mtcr cr rs1) := oneWord rfl rfl rfl
theorem setblk (rs1 rs2 : Reg) : Statement (.setblk rs1 rs2) := oneWord rfl rfl rfl
theorem adv (rs1 : Reg) : Statement (.adv rs1) := oneWord rfl rfl rfl
theorem atend (rd : Reg) : Statement (.atend rd) := oneWord rfl rfl rfl
theorem rvu32 (rd : Reg) : Statement (.rvu32 rd) := oneWord rfl rfl rfl
theorem rvs32 (rd : Reg) : Statement (.rvs32 rd) := oneWord rfl rfl rfl
theorem rvz32 (rd : Reg) : Statement (.rvz32 rd) := oneWord rfl rfl rfl
theorem rv64 (rd : Reg) : Statement (.rv64 rd) := oneWord rfl rfl rfl
theorem rvz64 (rd : Reg) : Statement (.rvz64 rd) := oneWord rfl rfl rfl
theorem rfu8 (rd : Reg) : Statement (.rfu8 rd) := oneWord rfl rfl rfl
theorem rfs8 (rd : Reg) : Statement (.rfs8 rd) := oneWord rfl rfl rfl
theorem rfu16 (rd : Reg) : Statement (.rfu16 rd) := oneWord rfl rfl rfl
theorem rfs16 (rd : Reg) : Statement (.rfs16 rd) := oneWord rfl rfl rfl
theorem rfu32 (rd : Reg) : Statement (.rfu32 rd) := oneWord rfl rfl rfl
theorem rfs32 (rd : Reg) : Statement (.rfs32 rd) := oneWord rfl rfl rfl
theorem rf64 (rd : Reg) : Statement (.rf64 rd) := oneWord rfl rfl rfl
theorem rflt (rd : Reg) : Statement (.rflt rd) := oneWord rfl rfl rfl
theorem rdbl (rd : Reg) : Statement (.rdbl rd) := oneWord rfl rfl rfl
theorem wvu32 (rs1 : Reg) : Statement (.wvu32 rs1) := oneWord rfl rfl rfl
theorem wvs32 (rs1 : Reg) : Statement (.wvs32 rs1) := oneWord rfl rfl rfl
theorem wvz32 (rs1 : Reg) : Statement (.wvz32 rs1) := oneWord rfl rfl rfl
theorem wv64 (rs1 : Reg) : Statement (.wv64 rs1) := oneWord rfl rfl rfl
theorem wvz64 (rs1 : Reg) : Statement (.wvz64 rs1) := oneWord rfl rfl rfl
theorem wfu8 (rs1 : Reg) : Statement (.wfu8 rs1) := oneWord rfl rfl rfl
theorem wfs8 (rs1 : Reg) : Statement (.wfs8 rs1) := oneWord rfl rfl rfl
theorem wfu16 (rs1 : Reg) : Statement (.wfu16 rs1) := oneWord rfl rfl rfl
theorem wfs16 (rs1 : Reg) : Statement (.wfs16 rs1) := oneWord rfl rfl rfl
theorem wfu32 (rs1 : Reg) : Statement (.wfu32 rs1) := oneWord rfl rfl rfl
theorem wfs32 (rs1 : Reg) : Statement (.wfs32 rs1) := oneWord rfl rfl rfl
theorem wf64 (rs1 : Reg) : Statement (.wf64 rs1) := oneWord rfl rfl rfl
theorem wflt (rs1 : Reg) : Statement (.wflt rs1) := oneWord rfl rfl rfl
theorem wdbl (rs1 : Reg) : Statement (.wdbl rs1) := oneWord rfl rfl rfl
theorem nextf (rd : Reg) : Statement (.nextf rd) := oneWord rfl rfl rfl
theorem wtchk (wt : BitVec 8) : Statement (.wtchk wt) := oneWord rfl rfl rfl
theorem wtag (rs1 : Reg) (wt : BitVec 8) : Statement (.wtag rs1 wt) := oneWord rfl rfl rfl

end Sys2Proof.Laws.CommandLength
end

