-- ==== Sys2Proof/Tests/Slice0.lean ====
section
/-! SUPPORT. The model's own tests. Words are written out from the field layout and the command map of 30_encoding.md (R71,
R80); the outcomes of single steps are those of 95_test_vectors.md, whose section is named beside each group. The last part
shows, for every statement that has hypotheses, a concrete state and operands that meet them. -/

namespace Sys2Proof.Tests

open Sys2Proof Sys2Proof.Machine Sys2Proof.Claims

/-! ## WellFormed refuses ill-formed terms (R75) -/

theorem test_wellFormed_refuses_mfcr_9 : (Instr.mfcr 1 9#8).wellFormed = false := by decide
theorem test_wellFormed_refuses_mtcr_9 : (Instr.mtcr 9#8 1).wellFormed = false := by decide
theorem test_wellFormed_refuses_wtchk_6 : (Instr.wtchk 6#8).wellFormed = false := by decide
theorem test_wellFormed_refuses_wtag_6 : (Instr.wtag 1 6#8).wellFormed = false := by decide
theorem test_wellFormed_takes_the_last_legal_values :
    ((Instr.mfcr 1 8#8).wellFormed && (Instr.mtcr 8#8 1).wellFormed && (Instr.wtchk 5#8).wellFormed &&
      (Instr.wtag 1 5#8).wellFormed) = true := by decide

/-! ## Decoding (2.2, R83): word 0 is op, rd, rs1, rs2, rs3 (a hex digit each after op) and imm8 -/

/-- The words decode to the command, with nothing left over. -/
def decodes (ws : List Word) (i : Instr) : Bool :=
  match decode ws with
  | .ok (j, []) => j == i
  | _ => false

/-- The words are no command, for this reason. -/
def rejects (ws : List Word) (e : Reject) : Bool :=
  match decode ws with
  | .error f => f == e
  | _ => false

theorem test_decode_arithmetic :
    (decodes [0x01123000#32] (.add 1 2 3) &&
    decodes [0x02123000#32] (.sub 1 2 3) &&
    decodes [0x03123000#32] (.mul 1 2 3) &&
    decodes [0x04467500#32] (.div 4 5 6 7) &&
    decodes [0x05120000#32] (.shl 1 2) &&
    decodes [0x06120000#32] (.shr 1 2) &&
    decodes [0x07FED000#32] (.cmpu 15 14 13) &&
    decodes [0x08123000#32] (.cmps 1 2 3) &&
    decodes [0x09120000#32] (.iszero 1 2) &&
    decodes [0x0A120000#32] (.msb 1 2) &&
    decodes [0x0B120000#32] (.lsb 1 2)) = true := by decide

theorem test_decode_zigzag_and_moves :
    (decodes [0x0C120000#32] (.zze64 1 2) &&
    decodes [0x0D120000#32] (.zzd64 1 2) &&
    decodes [0x0E120000#32] (.zze32 1 2) &&
    decodes [0x0F120000#32] (.zzd32 1 2) &&
    decodes [0x10210000#32] (.mov 2 1) &&
    decodes [0x11300000#32, 0xDEADBEEF#32] (.ldlo 3 0xDEADBEEF#32) &&
    decodes [0x12100000#32, 0x01123000#32] (.ldhi 1 0x01123000#32) &&
    decodes [0x13120000#32] (.f64tof32 1 2) &&
    decodes [0x14120000#32] (.f32tof64 1 2)) = true := by decide

theorem test_decode_cursor :
    (decodes [0x20200000#32] (.mfcr 2 0#8) &&
    decodes [0x20100008#32] (.mfcr 1 8#8) &&
    decodes [0x21090002#32] (.mtcr 2#8 9) &&
    decodes [0x220EF000#32] (.setblk 14 15) &&
    decodes [0x23040000#32] (.adv 4) &&
    decodes [0x24800000#32] (.atend 8)) = true := by decide

theorem test_decode_reads :
    (decodes [0x30100000#32] (.rvu32 1) &&
    decodes [0x31100000#32] (.rvs32 1) &&
    decodes [0x32100000#32] (.rvz32 1) &&
    decodes [0x33100000#32] (.rv64 1) &&
    decodes [0x34100000#32] (.rvz64 1) &&
    decodes [0x35100000#32] (.rfu8 1) &&
    decodes [0x36100000#32] (.rfs8 1) &&
    decodes [0x37100000#32] (.rfu16 1) &&
    decodes [0x38100000#32] (.rfs16 1) &&
    decodes [0x39100000#32] (.rfu32 1) &&
    decodes [0x3A100000#32] (.rfs32 1) &&
    decodes [0x3B100000#32] (.rf64 1) &&
    decodes [0x3C100000#32] (.rflt 1) &&
    decodes [0x3D100000#32] (.rdbl 1)) = true := by decide

theorem test_decode_writes :
    (decodes [0x40030000#32] (.wvu32 3) &&
    decodes [0x41030000#32] (.wvs32 3) &&
    decodes [0x42030000#32] (.wvz32 3) &&
    decodes [0x43030000#32] (.wv64 3) &&
    decodes [0x44030000#32] (.wvz64 3) &&
    decodes [0x45030000#32] (.wfu8 3) &&
    decodes [0x46030000#32] (.wfs8 3) &&
    decodes [0x47030000#32] (.wfu16 3) &&
    decodes [0x48030000#32] (.wfs16 3) &&
    decodes [0x49030000#32] (.wfu32 3) &&
    decodes [0x4A030000#32] (.wfs32 3) &&
    decodes [0x4B030000#32] (.wf64 3) &&
    decodes [0x4C030000#32] (.wflt 3) &&
    decodes [0x4D030000#32] (.wdbl 3)) = true := by decide

theorem test_decode_tags :
    (decodes [0x50B00000#32] (.nextf 11) &&
    decodes [0x51000005#32] (.wtchk 5#8) &&
    decodes [0x52010002#32] (.wtag 1 2#8)) = true := by decide

theorem test_decode_rejects_by_name :
    (rejects [0x00000000#32] .undefinedOp && rejects [0x15000000#32] .undefinedOp &&
    rejects [0x3E000000#32] .undefinedOp && rejects [0xFF000000#32] .undefinedOp &&
    rejects [0x01123001#32] .unusedField && rejects [0x11100001#32, 0#32] .unusedField &&
    rejects [0x20100009#32] .immRange && rejects [0x51000006#32] .immRange && rejects [0x52010006#32] .immRange &&
    rejects [0x11100000#32] .missingWord && rejects [] .noWord) = true := by decide

/-- A table row's word, with its operand word of zeros where it has one. -/
theorem test_decodeTableWord :
    (decodeTableWord 32 0x01123000 == some (.add 1 2 3) && decodeTableWord 64 0xDEADBEEF11300000 == some (.ldlo 3 0xDEADBEEF#32) &&
    decodeTableWord 32 0x11300000 == some (.ldlo 3 0#32) && decodeTableWord 32 0 == none) = true := by decide

/-! ## One command on a small state -/

/-- Reset with x2 = a, x3 = b. -/
def regs (a b : Split64) : State := { State.reset with x := (State.reset.x.set 2 a).set 3 b }

/-- The bytes at address 0, START = POS = 0, END their count; x1 = 0xAAAA, FVALID = 1, TAG = 0x55 as in 2.8. -/
def block (bs : List Byte) : State :=
  { State.reset with
    x := State.reset.x.set 1 0xAAAA#64, mem := State.reset.mem.writeBytes 0 bs, endAddr := BitVec.ofNat 32 bs.length,
    tag := 0x55#32, status := { State.reset.status with fvalid := true } }

/-- exec answers a next state of which p holds. -/
def after (i : Instr) (s : State) (p : State → Bool) : Bool :=
  match exec i s with
  | .next t => p t
  | _ => false

/-- x1 gets r, CP advances by one, STATUS is as before. -/
def computes (i : Instr) (a b r : Split64) : Bool :=
  after i (regs a b) fun t => t.x[1] == r && t.cp == 1#32 && t.status.word == 0#32

/-- A read of the bytes gives v in x1 and takes n of them. -/
def reads (i : Instr) (bs : List Byte) (v : Split64) (n : Nat) : Bool :=
  after i (block bs) fun t => t.x[1] == v && t.pos.toNat == n && t.cp == 1#32 && t.status.word == 0x4#32

/-- A read of the bytes fails: x1 and POS as before, STATUS this word. -/
def readFails (i : Instr) (bs : List Byte) (st : Word) : Bool :=
  after i (block bs) fun t => t.x[1] == 0xAAAA#64 && t.pos == 0#32 && t.cp == 1#32 && t.tag == 0x55#32 && t.status.word == st

/-- A write of x2 = a puts the bytes at address 0 and moves WPOS past them. -/
def writes (i : Instr) (a : Split64) (bs : List Byte) : Bool :=
  after i (regs a 0#64) fun t => (List.range (bs.length + 1)).all (fun k => t.byte k == bs.getD k 0#8) &&
    t.wpos.toNat == bs.length && t.cp == 1#32 && t.status.word == 0#32

/-- The command faults in state s: STATUS this word, FCMD the command's word 0, all else as before. -/
def faults (i : Instr) (s : State) (st : Word) : Bool :=
  after i s fun t => t.status.word == st && t.fcmd == i.word0 && t.x == s.x && t.mem == s.mem && t.cp == s.cp &&
    t.pos == s.pos && t.wpos == s.wpos && t.endAddr == s.endAddr && t.start == s.start && t.tag == s.tag

/-! ## Arithmetic, zigzag, moves (2.1, E2) -/

theorem test_add_wraps : computes (.add 1 2 3) 0xFFFFFFFFFFFFFFFF#64 0x1#64 0x0#64 = true := by decide
theorem test_add_carries_into_hi : computes (.add 1 2 3) 0xFFFFFFFF#64 0x1#64 0x100000000#64 = true := by decide
theorem test_sub_wraps : computes (.sub 1 2 3) 0x0#64 0x1#64 0xFFFFFFFFFFFFFFFF#64 = true := by decide
theorem test_sub_borrows_from_hi : computes (.sub 1 2 3) 0x100000000#64 0x1#64 0xFFFFFFFF#64 = true := by decide
theorem test_mul_ignores_hi_of_b : computes (.mul 1 2 3) 0x5#64 0x100000003#64 0xF#64 = true := by decide
theorem test_mul_keeps_low_64 : computes (.mul 1 2 3) 0xFFFFFFFFFFFFFFFF#64 0xFFFFFFFFFFFFFFFF#64 0xFFFFFFFF00000001#64 = true := by decide
theorem test_div_quotient_and_remainder :
    after (.div 1 4 2 3) (regs 0x64#64 0x7#64) (fun t => t.x[1] == 0xE#64 && t.x[4] == 0x2#64 && t.status.word == 0#32) =
      true := by decide
theorem test_div_zero_lo_is_the_failure_result :
    after (.div 1 4 2 3) (regs 0x5#64 0x100000000#64) (fun t => t.x[1] == 0#64 && t.x[4] == 0#64 && t.cp == 1#32 &&
      t.status.word == 0x2#32) = true := by decide
theorem test_shl_crosses_into_hi : computes (.shl 1 2) 0x80000000#64 0x0#64 0x100000000#64 = true := by decide
theorem test_shl_drops_bit_63 : computes (.shl 1 2) 0x8000000000000001#64 0x0#64 0x2#64 = true := by decide
theorem test_shr_crosses_into_lo : computes (.shr 1 2) 0x100000000#64 0x0#64 0x80000000#64 = true := by decide
theorem test_shr_is_logical : computes (.shr 1 2) 0xFFFFFFFFFFFFFFFF#64 0x0#64 0x7FFFFFFFFFFFFFFF#64 = true := by decide
theorem test_cmpu_is_unsigned : computes (.cmpu 1 2 3) 0x1#64 0xFFFFFFFFFFFFFFFF#64 0xFFFFFFFFFFFFFFFF#64 = true := by decide
theorem test_cmpu_hi_decides : computes (.cmpu 1 2 3) 0x100000000#64 0xFFFFFFFF#64 0x1#64 = true := by decide
theorem test_cmps_is_signed : computes (.cmps 1 2 3) 0x1#64 0xFFFFFFFFFFFFFFFF#64 0x1#64 = true := by decide
theorem test_cmps_extremes : computes (.cmps 1 2 3) 0x8000000000000000#64 0x7FFFFFFFFFFFFFFF#64 0xFFFFFFFFFFFFFFFF#64 = true := by decide
theorem test_iszero_looks_at_hi : computes (.iszero 1 2) 0x100000000#64 0x0#64 0x0#64 = true := by decide
theorem test_iszero_of_zero : computes (.iszero 1 2) 0x0#64 0x0#64 0x1#64 = true := by decide
theorem test_msb_is_bit_63 : computes (.msb 1 2) 0x80000000#64 0x0#64 0x0#64 = true := by decide
theorem test_msb_of_min : computes (.msb 1 2) 0x8000000000000000#64 0x0#64 0x1#64 = true := by decide
theorem test_lsb_is_bit_0 : computes (.lsb 1 2) 0x100000000#64 0x0#64 0x0#64 = true := by decide
theorem test_lsb_of_3 : computes (.lsb 1 2) 0x3#64 0x0#64 0x1#64 = true := by decide
theorem test_zze64_of_min : computes (.zze64 1 2) 0x8000000000000000#64 0x0#64 0xFFFFFFFFFFFFFFFF#64 = true := by decide
theorem test_zze64_of_minus_2 : computes (.zze64 1 2) 0xFFFFFFFFFFFFFFFE#64 0x0#64 0x3#64 = true := by decide
theorem test_zzd64_of_max : computes (.zzd64 1 2) 0xFFFFFFFFFFFFFFFF#64 0x0#64 0x8000000000000000#64 = true := by decide
theorem test_zzd64_of_3 : computes (.zzd64 1 2) 0x3#64 0x0#64 0xFFFFFFFFFFFFFFFE#64 = true := by decide
theorem test_zze32_zero_extends : computes (.zze32 1 2) 0xFFFFFFFF80000000#64 0x0#64 0xFFFFFFFF#64 = true := by decide
theorem test_zze32_ignores_hi : computes (.zze32 1 2) 0x1234567800000001#64 0x0#64 0x2#64 = true := by decide
theorem test_zzd32_sign_extends : computes (.zzd32 1 2) 0xFFFFFFFF#64 0x0#64 0xFFFFFFFF80000000#64 = true := by decide
theorem test_zzd32_of_even : computes (.zzd32 1 2) 0xFFFFFFFE#64 0x0#64 0x7FFFFFFF#64 = true := by decide
theorem test_mov : computes (.mov 1 2) 0x1111111122222222#64 0x0#64 0x1111111122222222#64 = true := by decide
theorem test_ldlo_keeps_hi :
    after (.ldlo 2 0xDEADBEEF#32) (regs 0x1111111122222222#64 0#64)
      (fun t => t.x[2] == 0x11111111DEADBEEF#64 && t.cp == 2#32) = true := by decide
theorem test_ldhi_keeps_lo :
    after (.ldhi 2 0xDEADBEEF#32) (regs 0x1111111122222222#64 0#64)
      (fun t => t.x[2] == 0xDEADBEEF22222222#64 && t.cp == 2#32) = true := by decide

/-! ## Floats (2.7) -/

theorem test_f64tof32_rounds_denormal_up : computes (.f64tof32 1 2) 0x380FFFFFF0000000#64 0x0#64 0x800000#64 = true := by decide +kernel
theorem test_f64tof32_tie_to_even : computes (.f64tof32 1 2) 0x3FF0000030000000#64 0x0#64 0x3F800002#64 = true := by decide +kernel
theorem test_f32tof64_denormal : computes (.f32tof64 1 2) 0xDEADBEEF00000001#64 0x0#64 0x36A0000000000000#64 = true := by decide
theorem test_f32tof64_nan_is_canonical : computes (.f32tof64 1 2) 0xFFC00000#64 0x0#64 0x7FF8000000000000#64 = true := by decide
theorem test_rflt_inf : reads (.rflt 1) [0x00#8, 0x00#8, 0x80#8, 0xFF#8] 0xFFF0000000000000#64 4 = true := by decide
theorem test_rflt_nan_is_canonical : reads (.rflt 1) [0x01#8, 0x00#8, 0xC0#8, 0x7F#8] 0x7FF8000000000000#64 4 = true := by decide
theorem test_rdbl_one : reads (.rdbl 1) [0x00#8, 0x00#8, 0x00#8, 0x00#8, 0x00#8, 0x00#8, 0xF0#8, 0x3F#8] 0x3FF0000000000000#64 8 = true := by decide
theorem test_rdbl_nan_is_canonical : reads (.rdbl 1) [0x01#8, 0x00#8, 0x00#8, 0x00#8, 0x00#8, 0x00#8, 0xF0#8, 0xFF#8] 0x7FF8000000000000#64 8 = true := by decide
theorem test_wflt_above_flt_max_is_inf : writes (.wflt 2) 0x47EFFFFFE0000001#64 [0x00#8, 0x00#8, 0x80#8, 0x7F#8] = true := by decide +kernel
theorem test_wflt_tie_to_even : writes (.wflt 2) 0x36A8000000000000#64 [0x02#8, 0x00#8, 0x00#8, 0x00#8] = true := by decide +kernel
theorem test_wdbl : writes (.wdbl 2) 0xC004000000000000#64 [0x00#8, 0x00#8, 0x00#8, 0x00#8, 0x00#8, 0x00#8, 0x04#8, 0xC0#8] = true := by decide
theorem test_wdbl_nan_is_canonical : writes (.wdbl 2) 0xFFFFFFFFFFFFFFFF#64 [0x00#8, 0x00#8, 0x00#8, 0x00#8, 0x00#8, 0x00#8, 0xF8#8, 0x7F#8] = true := by decide

/-! ## Control registers and cursors (2.3) -/

theorem test_mfcr_id : computes (.mfcr 1 8#8) 0#64 0#64 0x53360007#64 = true := by decide
theorem test_mfcr_cp_is_its_own_index :
    after (.mfcr 1 7#8) { State.reset with cp := 3#32 } (fun t => t.x[1] == 3#64 && t.cp == 4#32) = true := by decide
/-- START = 0, END = 23, POS = 2, x2 = a. -/
def cursors (a : Split64) : State := { regs a 0#64 with endAddr := 23#32, pos := 2#32 }
theorem test_mtcr_end : after (.mtcr 2#8 2) (cursors 13#64) (fun t => t.endAddr == 13#32 && t.cp == 1#32) = true := by decide
theorem test_mtcr_end_below_pos_faults : faults (.mtcr 2#8 2) (cursors 1#64) 0x608#32 = true := by decide
theorem test_setblk_clears_the_error_state :
    after (.setblk 2 3) { regs 0x100#64 0x20#64 with
      tag := 0x12#32, status := { State.reset.status with derr := true, fail := true, fvalid := true, ecode := 1#4 } }
      (fun t => t.start == 256#32 && t.pos == 256#32 && t.endAddr == 288#32 && t.tag == 0#32 && t.status.word == 0#32) =
      true := by decide
theorem test_setblk_too_long_faults : faults (.setblk 2 3) (regs 65535#64 2#64) 0x608#32 = true := by decide
theorem test_adv_to_end :
    after (.adv 2) { cursors 19#64 with pos := 4#32 } (fun t => t.pos == 23#32 && t.status.word == 0#32) = true := by decide
theorem test_adv_past_end :
    after (.adv 2) { cursors 20#64 with pos := 4#32 }
      (fun t => t.pos == 4#32 && t.status.word == 0x13#32 && t.cp == 1#32) = true := by decide
theorem test_atend : after (.atend 1) { cursors 0#64 with pos := 23#32 } (fun t => t.x[1] == 1#64) = true := by decide
theorem test_atend_before_end : after (.atend 1) { cursors 0#64 with pos := 22#32 } (fun t => t.x[1] == 0#64) = true := by
  decide

/-! ## Varint reads (2.4) -/

theorem test_rvu32_sign_extension_form : reads (.rvu32 1) [0xFF#8, 0xFF#8, 0xFF#8, 0xFF#8, 0xF0#8, 0xFF#8, 0xFF#8, 0xFF#8, 0xFF#8, 0x01#8] 0xFFFFFFF#64 10 = true := by decide
theorem test_rvu32_bad_fifth_byte : readFails (.rvu32 1) [0x80#8, 0x80#8, 0x80#8, 0x80#8, 0x10#8] 0x37#32 = true := by decide
theorem test_rvs32_ten_bytes : reads (.rvs32 1) [0xFF#8, 0xFF#8, 0xFF#8, 0xFF#8, 0xFF#8, 0xFF#8, 0xFF#8, 0xFF#8, 0xFF#8, 0x01#8] 0xFFFFFFFFFFFFFFFF#64 10 = true := by decide
theorem test_rvs32_five_bytes : reads (.rvs32 1) [0x80#8, 0x80#8, 0x80#8, 0x80#8, 0x08#8] 0xFFFFFFFF80000000#64 5 = true := by decide
theorem test_rvz32_min : reads (.rvz32 1) [0xFF#8, 0xFF#8, 0xFF#8, 0xFF#8, 0x0F#8] 0xFFFFFFFF80000000#64 5 = true := by decide
theorem test_rvz32_past_end : readFails (.rvz32 1) [0x80#8] 0x17#32 = true := by decide
theorem test_rv64_ignores_high_bits_of_byte_10 : reads (.rv64 1) [0xFF#8, 0xFF#8, 0xFF#8, 0xFF#8, 0xFF#8, 0xFF#8, 0xFF#8, 0xFF#8, 0xFF#8, 0x7F#8] 0xFFFFFFFFFFFFFFFF#64 10 = true := by decide
theorem test_rv64_too_long : readFails (.rv64 1) [0x80#8, 0x80#8, 0x80#8, 0x80#8, 0x80#8, 0x80#8, 0x80#8, 0x80#8, 0x80#8, 0x80#8, 0x80#8] 0x27#32 = true := by decide
theorem test_rvz64_min : reads (.rvz64 1) [0xFF#8, 0xFF#8, 0xFF#8, 0xFF#8, 0xFF#8, 0xFF#8, 0xFF#8, 0xFF#8, 0xFF#8, 0x01#8] 0x8000000000000000#64 10 = true := by decide
theorem test_rvz64_minus_2 : reads (.rvz64 1) [0x03#8] 0xFFFFFFFFFFFFFFFE#64 1 = true := by decide

/-! ## Varint writes (2.5) -/

theorem test_wvu32_300 : writes (.wvu32 2) 0x12C#64 [0xAC#8, 0x02#8] = true := by decide
theorem test_wvu32_range : faults (.wvu32 2) (regs 0x100000000#64 0#64) 0x208#32 = true := by decide
theorem test_wvs32_min : writes (.wvs32 2) 0xFFFFFFFF80000000#64 [0x80#8, 0x80#8, 0x80#8, 0x80#8, 0xF8#8, 0xFF#8, 0xFF#8, 0xFF#8, 0xFF#8, 0x01#8] = true := by decide
theorem test_wvs32_range : faults (.wvs32 2) (regs 0x80000000#64 0#64) 0x208#32 = true := by decide
theorem test_wvz32_max : writes (.wvz32 2) 0x7FFFFFFF#64 [0xFE#8, 0xFF#8, 0xFF#8, 0xFF#8, 0x0F#8] = true := by decide
theorem test_wvz32_min : writes (.wvz32 2) 0xFFFFFFFF80000000#64 [0xFF#8, 0xFF#8, 0xFF#8, 0xFF#8, 0x0F#8] = true := by decide
theorem test_wv64_two_pow_35 : writes (.wv64 2) 0x800000000#64 [0x80#8, 0x80#8, 0x80#8, 0x80#8, 0x80#8, 0x01#8] = true := by decide
theorem test_wv64_overflow : faults (.wv64 2) { regs 300#64 0#64 with wpos := 65535#32 } 0x508#32 = true := by decide
theorem test_wvz64_max : writes (.wvz64 2) 0x7FFFFFFFFFFFFFFF#64 [0xFE#8, 0xFF#8, 0xFF#8, 0xFF#8, 0xFF#8, 0xFF#8, 0xFF#8, 0xFF#8, 0xFF#8, 0x01#8] = true := by decide
theorem test_wvz64_minus_1 : writes (.wvz64 2) 0xFFFFFFFFFFFFFFFF#64 [0x01#8] = true := by decide

/-! ## Fixed reads and writes (2.6) -/

theorem test_rfu8 : reads (.rfu8 1) [0xFF#8] 0xFF#64 1 = true := by decide
theorem test_rfs8 : reads (.rfs8 1) [0xFF#8] 0xFFFFFFFFFFFFFFFF#64 1 = true := by decide
theorem test_rfu16 : reads (.rfu16 1) [0x34#8, 0x12#8] 0x1234#64 2 = true := by decide
theorem test_rfs16 : reads (.rfs16 1) [0x00#8, 0x80#8] 0xFFFFFFFFFFFF8000#64 2 = true := by decide
theorem test_rfu32 : reads (.rfu32 1) [0x78#8, 0x56#8, 0x34#8, 0x12#8] 0x12345678#64 4 = true := by decide
theorem test_rfu32_past_end : readFails (.rfu32 1) [0x78#8, 0x56#8, 0x34#8] 0x17#32 = true := by decide
theorem test_rfs32 : reads (.rfs32 1) [0xFF#8, 0xFF#8, 0xFF#8, 0xFF#8] 0xFFFFFFFFFFFFFFFF#64 4 = true := by decide
theorem test_rf64 : reads (.rf64 1) [0x01#8, 0x02#8, 0x03#8, 0x04#8, 0x05#8, 0x06#8, 0x07#8, 0x08#8] 0x0807060504030201#64 8 = true := by decide
theorem test_rf64_past_end : readFails (.rf64 1) [0x01#8, 0x02#8, 0x03#8, 0x04#8, 0x05#8, 0x06#8, 0x07#8] 0x17#32 = true := by decide
theorem test_wfu8 : writes (.wfu8 2) 0xFF#64 [0xFF#8] = true := by decide
theorem test_wfu8_range : faults (.wfu8 2) (regs 0x100#64 0#64) 0x208#32 = true := by decide
theorem test_wfs8 : writes (.wfs8 2) 0xFFFFFFFFFFFFFF80#64 [0x80#8] = true := by decide
theorem test_wfs8_range : faults (.wfs8 2) (regs 0x80#64 0#64) 0x208#32 = true := by decide
theorem test_wfu16 : writes (.wfu16 2) 0xFFFF#64 [0xFF#8, 0xFF#8] = true := by decide
theorem test_wfu16_range_comes_before_enc_ovf :
    faults (.wfu16 2) { regs 65536#64 0#64 with wpos := 65536#32 } 0x208#32 = true := by decide
theorem test_wfs16 : writes (.wfs16 2) 0xFFFFFFFFFFFF8000#64 [0x00#8, 0x80#8] = true := by decide
theorem test_wfs16_range : faults (.wfs16 2) (regs 0x8000#64 0#64) 0x208#32 = true := by decide
theorem test_wfu32 : writes (.wfu32 2) 0xFFFFFFFF#64 [0xFF#8, 0xFF#8, 0xFF#8, 0xFF#8] = true := by decide
theorem test_wfu32_range : faults (.wfu32 2) (regs 0x100000000#64 0#64) 0x208#32 = true := by decide
theorem test_wfs32 : writes (.wfs32 2) 0xFFFFFFFF80000000#64 [0x00#8, 0x00#8, 0x00#8, 0x80#8] = true := by decide
theorem test_wfs32_range : faults (.wfs32 2) (regs 0x80000000#64 0#64) 0x208#32 = true := by decide
theorem test_wf64 : writes (.wf64 2) 0x0807060504030201#64 [0x01#8, 0x02#8, 0x03#8, 0x04#8, 0x05#8, 0x06#8, 0x07#8, 0x08#8] = true := by decide

/-! ## Field tags (2.8) -/

theorem test_nextf_ten_byte_tag :
    after (.nextf 1) (block [0xFA#8, 0xFF#8, 0xFF#8, 0xFF#8, 0xFF#8, 0xFF#8, 0xFF#8, 0xFF#8, 0xFF#8, 0x01#8])
      (fun t => t.x[1] == 0x000000021FFFFFFF#64 && t.tag == 0xFFFFFFFA#32 && t.pos == 10#32 && t.status.word == 0x4#32) =
      true := by decide
theorem test_nextf_bad_wire_type_comes_first : readFails (.nextf 1) [0x07#8] 0x43#32 = true := by decide
/-- Log 9: the ten-byte form with byte 5 = 0xF0 stands for a tag whose top four bits are 0 (R133). -/
theorem test_scan_of_a_ten_byte_tag_with_field_1 :
    after (.nextf 1) (block [0x88#8, 0x80#8, 0x80#8, 0x80#8, 0xF0#8, 0xFF#8, 0xFF#8, 0xFF#8, 0xFF#8, 0x01#8])
      (fun t => t.x[1] == 0x0000000000000001#64 && t.tag == 0x8#32 && t.pos == 10#32) = true := by decide
theorem test_wtchk_passes :
    after (.wtchk 0#8) { State.reset with tag := 0x8#32, status := { State.reset.status with fvalid := true } }
      (fun t => t.status.word == 0x4#32 && t.cp == 1#32) = true := by decide
theorem test_wtchk_mismatch_faults :
    faults (.wtchk 5#8) { State.reset with tag := 0x8#32, status := { State.reset.status with fvalid := true } } 0x40C#32 =
      true := by decide
theorem test_wtag_largest_field : writes (.wtag 2 5#8) 0x1FFFFFFF#64 [0xFD#8, 0xFF#8, 0xFF#8, 0xFF#8, 0x0F#8] = true := by
  decide
theorem test_wtag_field_0_faults : faults (.wtag 2 0#8) (regs 0#64 0#64) 0x308#32 = true := by decide

/-! ## Steps (2.2, 2.9) -/

/-- A step answers a next state of which p holds. -/
def stepsTo (s : State) (p : State → Bool) : Bool :=
  match step s with
  | .next t => p t
  | _ => false

/-- A halted unit with FCODE 2. -/
def halted : State := { State.reset with status := { State.reset.status with fault := true, fcode := 2#8 }, cp := 6#32, fcmd := 0x47020000#32 }

theorem test_step_illegal :
    stepsTo (State.reset.sent 0x01123001#32 [])
      (fun t => t.status.word == 0x108#32 && t.fcmd == 0x01123001#32 && t.cp == 0#32 && t.input == []) = true := by decide
theorem test_step_word_1_is_data :
    stepsTo (State.reset.sent 0x11100000#32 [.word 0x01123000#32])
      (fun t => t.x[1] == 0x01123000#64 && t.cp == 2#32 && t.input == []) = true := by decide
theorem test_step_latches_word_0 :
    stepsTo (State.reset.sent 0x11100000#32 []) (fun t => t.latch == some 0x11100000#32 && t.cp == 0#32) = true := by decide
theorem test_step_halted_discards :
    stepsTo (halted.sent 0x45010000#32 []) (fun t => t == halted) = true := by decide
theorem test_withFetchWord_runs_the_word :
    stepsTo (State.reset.withFetchWord 64 0xDEADBEEF11300000)
      (fun t => t.x[3] == 0x00000000DEADBEEF#64 && t.cp == 2#32 && t.input == []) = true := by decide
theorem test_reset_memory_is_canonical : Memory.wf State.reset.mem := by decide

/-! ## Witnesses: a state and operands that meet the hypotheses of a statement, clause by clause where it has several -/

/-- Every `RunsAs` and `RunsAsTwoWords`: a ready state, and for each op a word that carries it. -/
theorem test_witness_RunsAs : State.reset.ready ∧ ∀ op : BitVec 8, (fieldsOf (op ++ 0#24)).op = op := by
  refine ⟨⟨rfl, rfl⟩, fun op => ?_⟩
  simp only [fieldsOf]
  apply BitVec.eq_of_getLsbD_eq
  intro k hk
  simp only [BitVec.getLsbD_extractLsb', BitVec.getLsbD_append]
  rw [if_neg (by omega), decide_eq_true hk, Bool.true_and]
  congr 1
  omega

theorem test_witness_DecodeOfEncodeIsTheCommand : (Instr.mtcr 8#8 15).wellFormed = true := by decide

theorem test_witness_DecodedWordsAreTheEncoding :
    decode [0x11300000#32, 0xDEADBEEF#32, 0#32] = .ok (.ldlo 3 0xDEADBEEF#32, [0#32]) := by rfl

/-- Both clauses, at the ends of the legal ranges of imm8 and with the lowest and highest unused bit. -/
theorem test_witness_IllegalWordsFaultAndOthersRun :
    State.reset.ready ∧ Illegal 0x20100009#32 ∧ Illegal 0x52010006#32 ∧ Illegal 0x01123001#32 ∧ Illegal 0x11180000#32 ∧
      ¬Illegal 0x20100008#32 ∧ ¬Illegal 0x52010005#32 ∧ ¬Illegal 0x11100000#32 := by
  refine ⟨⟨rfl, rfl⟩, ?_⟩
  simp [Illegal, unusedBits]

/-- Every clause at both ends of its range. -/
theorem test_witness_ReservedOpsAreIllegal :
    State.reset.ready ∧ (0x00FFFFFF#32).toNat / 2 ^ 24 = 0x00 ∧ (0x15000000#32).toNat / 2 ^ 24 = 0x15 ∧
      (0x1F000000#32).toNat / 2 ^ 24 = 0x1F ∧ (0x25000000#32).toNat / 2 ^ 24 = 0x25 ∧
      (0x2F000000#32).toNat / 2 ^ 24 = 0x2F ∧ (0x3E000000#32).toNat / 2 ^ 24 = 0x3E ∧
      (0x3F000000#32).toNat / 2 ^ 24 = 0x3F ∧ (0x4E000000#32).toNat / 2 ^ 24 = 0x4E ∧
      (0x4F000000#32).toNat / 2 ^ 24 = 0x4F ∧ (0x53000000#32).toNat / 2 ^ 24 = 0x53 ∧
      0x53 ≤ (0xFF000000#32).toNat / 2 ^ 24 := ⟨⟨rfl, rfl⟩, by decide⟩

/-- One word (an undefined op among them), two words, and a two-word op with a host action that is no word behind it. -/
theorem test_witness_StepTakesExactlyTheCommandsWords :
    State.reset.ready ∧ (0x13000000#32).toNat / 2 ^ 24 ≠ 0x11 ∧ (0x13000000#32).toNat / 2 ^ 24 ≠ 0x12 ∧
      (0x12FFFFFF#32).toNat / 2 ^ 24 = 0x12 ∧
      (∀ w1 rest, ([.reset] : List HostAction) ≠ .word w1 :: rest) := by
  refine ⟨⟨rfl, rfl⟩, by decide, by decide, by decide, ?_⟩
  simp

theorem test_witness_StepRunsTheDecodedCommand : State.reset.ready ∧ (Instr.wtag 1 5#8).wellFormed = true :=
  ⟨⟨rfl, rfl⟩, rfl⟩

/-- Reset with word 0 of LDLO x1 in the latch, and with a word 0 that is illegal. -/
def latched (w : Word) : State := { State.reset with latch := some w }

theorem test_witness_LatchHoldsWordZeroUntilWordOneArrives :
    State.reset.input = [] ∧ State.reset.status.fault = false ∧ State.reset.latch = none ∧
      isTwoWord 0x11100000#32 = true ∧ (latched 0x11100000#32).latch = some 0x11100000#32 ∧
      decode [0x11100000#32, 5#32] = .ok (.ldlo 1 5#32, []) ∧ decode [0x11100001#32, 5#32] = .error .unusedField :=
  ⟨rfl, rfl, rfl, by decide, rfl, rfl, rfl⟩

theorem test_witness_HaltedUnitDiscardsWordsUntilReset :
    halted.status.fault = true ∧ halted.latch = none ∧ (0xFFFF#32).toNat < halted.memBytes := by decide

/-- Each clause, at the last byte of MEM and the first address beyond it. -/
theorem test_witness_HostPortsReadAndWriteWhileIdle :
    Memory.wf State.reset.mem ∧ State.reset.latch = none ∧ (0xFFFF#32).toNat < State.reset.memBytes ∧
      State.reset.memBytes ≤ (0x10000#32).toNat ∧ (latched 0x11100000#32).latch ≠ none := by decide

/-- A block of two bytes meets the invariant. -/
theorem test_witness_block_Inv : (block [0x08#8, 0x01#8]).Inv := by
  refine ⟨by unfold State.CursorInv; decide, by unfold State.MemInv; decide, ?_, ?_⟩
  · refine ⟨by decide, by decide, by decide, by decide, fun _ => rfl, ?_, fun _ => rfl⟩
    intro w h
    cases h
  · intro _
    decide

theorem test_witness_StepKeepsTheInvariant :
    ∃ t, step ((block [0x08#8, 0x01#8]).sent 0x50100000#32 []) = .next t ∧ t.x[1] = 1#64 := ⟨_, rfl, by decide⟩

theorem test_witness_PowerUpMeetsTheInvariant :
    Memory.wf [(0, 1#8), (0xFF, 2#8)] ∧ ∀ e ∈ ([(0, 1#8), (0xFF, 2#8)] : Memory), e.1 < (Config.mk 0).memBytes := by decide

/-- A step, a run of three words, and an MTCR that faults and one that does not. -/
theorem test_witness_CursorsStayInOrder :
    (block [0x08#8, 0x01#8]).CursorInv ∧
      (∃ t, Sys2Proof.core.run 2 { State.powerUp ⟨0⟩ [] with input := [.word 0x11100000#32, .word 0x100#32, .word 0x21010004#32] } =
        .next t ∧ (show State from t).wpos = 0x100#32) ∧
      (∃ t, exec (.mtcr 4#8 2) (regs 0x10000#64 0#64) = .next t ∧ t.wpos = 0x10000#32) ∧
      (∃ t, exec (.mtcr 4#8 2) (regs 0x10001#64 0#64) = .next t ∧ t.status.fcode = 6#8) := by
  refine ⟨test_witness_block_Inv.1, ⟨_, rfl, by decide⟩, ⟨_, rfl, by decide⟩, ⟨_, rfl, by decide⟩⟩

/-- A command in a unit that is not halted, for each of the four ways to end. -/
theorem test_witness_CommandsEndInExactlyOneOfFourWays :
    (regs 0#64 0#64).status.fault = false ∧
      after (.add 1 2 3) (regs 0#64 0#64) (fun t => t.status.word == 0#32) = true ∧
      after (.div 1 4 2 3) (regs 0#64 0#64) (fun t => t.status.word == 0x2#32) = true ∧
      after (.rfu8 1) (regs 0#64 0#64) (fun t => t.status.word == 0x13#32) = true ∧
      after (.wtchk 0#8) (regs 0#64 0#64) (fun t => t.status.word == 0x408#32) = true := by decide

theorem test_witness_ContractFaultsArePrecise :
    State.reset.ready ∧ ∃ t, step (State.reset.sent 0x51000000#32 []) = .next t ∧ t.status.fault = true :=
  ⟨⟨rfl, rfl⟩, _, rfl, by decide⟩

/-- POS = END = 0 after a first decode error with code 3. -/
def erred : State := { State.reset with status := { State.reset.status with derr := true, ecode := 3#4, fail := true } }

theorem test_witness_FirstDecodeErrorStaysUntilSetblk :
    (∀ a b, Instr.rfu8 1 ≠ .setblk a b) ∧ erred.status.derr = true ∧ erred.status.ecode ≠ 0#4 ∧
      ∃ t, exec (.rfu8 1) erred = .next t ∧ t.status.word = 0x33#32 :=
  ⟨fun _ _ => Instr.noConfusion, by decide, by decide, _, rfl, by decide⟩

/-- Each clause: a command that does not write FAIL, one that faults, one that fails. -/
theorem test_witness_FailReportsTheLastCommandThatCanFail :
    erred.status.fault = false ∧ writesFail (.add 1 2 3) = false ∧ writesFail (.adv 0) = true ∧
      after (.add 1 2 3) erred (fun t => t.status.fail) = true ∧
      after (.wtchk 0#8) erred (fun t => t.status.fault) = true ∧
      after (.adv 0) erred (fun t => !t.status.fault && !t.status.fail) = true := by decide

theorem test_witness_ReadsIgnoreErrorStateAndField : isRead (.rdbl 1) = true := rfl

/-- Another MEM that agrees on the window, which is two bytes long, and nowhere else. -/
theorem test_witness_ReadsSeeOnlyTheDecoderWindow :
    isRead (.rfu16 1) = true ∧ ∀ a, (block [0x08#8, 0x01#8]).pos.toNat ≤ a → a < (block [0x08#8, 0x01#8]).endAddr.toNat →
      Memory.read [(0, 0x08#8), (1, 0x01#8), (2, 0x55#8)] a = (block [0x08#8, 0x01#8]).mem.read a := by
  refine ⟨rfl, fun a _ h => ?_⟩
  have h2 : a < 2 := h
  interval_cases a <;> decide

/-- Each clause: a read in its window, one that fails, and ten bytes that all continue. -/
theorem test_witness_ReadsTakeAtMostTenBytesInTheWindow :
    isVarintRead (.rv64 1) = true ∧ (block (List.replicate 10 0x80#8)).pos.toNat ≤ (block (List.replicate 10 0x80#8)).endAddr.toNat ∧
      (∀ k < 10, 0x80 ≤ ((block (List.replicate 10 0x80#8)).byte ((block (List.replicate 10 0x80#8)).pos.toNat + k)).toNat) ∧
      after (.rv64 1) (block (List.replicate 10 0x80#8)) (fun t => t.status.fail) = true := by decide

/-- Each clause: a register that is no destination, a fault, and FAIL by a decode error and by a zero divisor. -/
theorem test_witness_OtherRegistersUnchanged :
    (15 : Reg) ∉ dests (.div 1 4 2 3) ∧ State.reset.status.fault = false ∧
      (∃ t, exec (.wtchk 0#8) State.reset = .next t ∧ t.status.fault = true) ∧
      (∃ t, exec (.rfu8 1) State.reset = .next t ∧ writesFail (.rfu8 1) = true ∧ t.status.fail = true) ∧
      (∃ t, exec (.div 1 4 2 3) State.reset = .next t ∧ writesFail (.div 1 4 2 3) = true ∧ t.status.fail = true) :=
  ⟨by decide, rfl, ⟨_, rfl, rfl⟩, ⟨_, rfl, rfl, rfl⟩, ⟨_, rfl, rfl, by decide⟩⟩

/-- Each clause: a command that moves no cursor, one that is no write, one that keeps TAG, MTCR of another cursor. -/
theorem test_witness_OtherControlRegistersUnchanged :
    (∃ t, exec (.wtag 2 0#8) (regs 1#64 0#64) = .next t ∧ t.status.fault = false) ∧
      (∀ cr r, Instr.wtag 2 0#8 ≠ .mtcr cr r) ∧ (∀ a b, Instr.wtag 2 0#8 ≠ .setblk a b) ∧
      (∀ rd, Instr.wtag 2 0#8 ≠ .nextf rd) ∧ canDecodeError (.wtag 2 0#8) = false ∧ isWrite (.rfu8 1) = false ∧
      (∃ t, exec (.mtcr 4#8 2) (regs 9#64 0#64) = .next t ∧ t.wpos = 9#32) :=
  ⟨⟨_, rfl, by decide⟩, fun _ _ => Instr.noConfusion, fun _ _ => Instr.noConfusion, fun _ => Instr.noConfusion, rfl, rfl,
    ⟨_, rfl, by decide⟩⟩

/-- One command meets every clause: it does not write FAIL, is no NEXTF or SETBLK, cannot raise a decode error and does not
fault. -/
theorem test_witness_OtherStatusFieldsUnchanged :
    (∀ a b, Instr.add 1 2 3 ≠ .setblk a b) ∧ (∀ rd, Instr.add 1 2 3 ≠ .nextf rd) ∧ canDecodeError (.add 1 2 3) = false ∧
      writesFail (.add 1 2 3) = false ∧
      ∃ t, exec (.add 1 2 3) State.reset = .next t ∧ ¬Faults (.add 1 2 3) State.reset t := by
  refine ⟨fun _ _ => Instr.noConfusion, fun _ => Instr.noConfusion, rfl, rfl, _, rfl, ?_⟩
  rintro ⟨c, -, -, h⟩
  exact Bool.noConfusion (congrArg (fun s => s.status.fault) h)

/-- Each clause: no write, a write that faults one byte short, a write that just fits. -/
theorem test_witness_MemoryChangesOnlyWhereAnEncoderWrites :
    Memory.wf State.reset.mem ∧ State.reset.status.fault = false ∧ isWrite (.add 1 2 3) = false ∧ isWrite (.wfu16 2) = true ∧
      (∃ t, exec (.wfu16 2) { regs 5#64 0#64 with wpos := 65535#32 } = .next t ∧ t.status.fault = true) ∧
      (∃ t, exec (.wfu16 2) { regs 5#64 0#64 with wpos := 65534#32 } = .next t ∧ t.status.fault = false) :=
  ⟨by decide, rfl, rfl, rfl, ⟨_, rfl, by decide⟩, ⟨_, rfl, by decide⟩⟩

/-- Both clauses: a divisor whose low half is 0 although its high half is not, and the least divisor that is not 0. -/
theorem test_witness_DivWritesQuotientThenRemainder :
    (regs 5#64 0xFFFFFFFF00000000#64).x[3].toNat % 2 ^ 32 = 0 ∧ (regs 5#64 1#64).x[3].toNat % 2 ^ 32 ≠ 0 := by decide

/-- Each clause: zero, the least denormal, the largest finite pattern, both infinities, the least and the largest NaN. -/
theorem test_witness_WidenIsExact :
    Finite32 0#32 ∧ Finite32 1#32 ∧ Finite32 0xFF7FFFFF#32 ∧ (0x7F800000#32).toNat % 2 ^ 31 = 0x7F800000 ∧
      (0xFF800000#32).toNat % 2 ^ 31 = 0x7F800000 ∧ NaN32 0x7F800001#32 ∧ NaN32 0xFFFFFFFF#32 := by
  unfold Finite32 NaN32
  decide

theorem test_witness_NarrowUndoesWiden : ¬NaN32 0xFF800000#32 ∧ ¬NaN32 1#32 := by
  unfold NaN32
  decide

/-- FLT_MAX and the next double above it. -/
theorem test_value_flt_max : value64 0x47EFFFFFE0000000#64 = (2 ^ 24 - 1) * 2 ^ 104 := by
  have h : (0x47EFFFFFE0000000#64).msb = false := by decide
  norm_num [value64, h]

theorem test_value_above_flt_max : value64 0x47EFFFFFE0000001#64 = (2 ^ 24 - 1) * 2 ^ 104 + 2 ^ 75 := by
  have h : (0x47EFFFFFE0000001#64).msb = false := by decide
  norm_num [value64, h]

/-- Each clause; the third and the fourth meet at FLT_MAX. -/
theorem test_witness_NarrowBranches :
    NaN64 0x7FF0000000000001#64 ∧ (0x8000000000000000#64).toNat % 2 ^ 63 = 0 ∧
      (0xFFF0000000000000#64).toNat % 2 ^ 63 = 0x7FF0000000000000 ∧
      (Finite64 0x47EFFFFFE0000001#64 ∧ (2 ^ 24 - 1) * 2 ^ 104 < |value64 0x47EFFFFFE0000001#64|) ∧
      Finite64 0x47EFFFFFE0000000#64 ∧ |value64 0x47EFFFFFE0000000#64| ≤ (2 ^ 24 - 1) * 2 ^ 104 := by
  refine ⟨by unfold NaN64; decide, by decide, by decide, ⟨by unfold Finite64; decide, ?_⟩, by unfold Finite64; decide, ?_⟩
  · rw [test_value_above_flt_max, abs_of_nonneg (by norm_num)]
    norm_num
  · rw [test_value_flt_max, abs_of_nonneg (by norm_num)]

theorem test_value_tie : value64 0x3FF0000010000000#64 = 1 + 1 / 2 ^ 24 := by
  have h : (0x3FF0000010000000#64).msb = false := by decide
  norm_num [value64, h]

theorem test_value_one : value32 0x3F800000#32 = 1 := by
  have h : (0x3F800000#32).msb = false := by decide
  norm_num [value32, h]

theorem test_value_after_one : value32 0x3F800001#32 = 1 + 1 / 2 ^ 23 := by
  have h : (0x3F800001#32).msb = false := by decide
  norm_num [value32, h]

/-- Both clauses: 1 + 2^-24 is as near to 1 as to 1 + 2^-23, and narrows to 1. -/
theorem test_witness_NarrowRoundsToNearestEven :
    Finite64 0x3FF0000010000000#64 ∧ |value64 0x3FF0000010000000#64| ≤ (2 ^ 24 - 1) * 2 ^ 104 ∧ Finite32 0x3F800001#32 ∧
      |value32 (narrow 0x3FF0000010000000#64) - value64 0x3FF0000010000000#64| =
        |value32 0x3F800001#32 - value64 0x3FF0000010000000#64| ∧
      value32 0x3F800001#32 ≠ value32 (narrow 0x3FF0000010000000#64) := by
  have hn : narrow 0x3FF0000010000000#64 = 0x3F800000#32 := by decide +kernel
  rw [hn, test_value_tie, test_value_one, test_value_after_one]
  refine ⟨by unfold Finite64; decide, ?_, by unfold Finite32; decide, ?_, ?_⟩
  · rw [abs_of_nonneg (by norm_num)]
    norm_num
  · rw [abs_of_nonpos (by norm_num), abs_of_nonneg (by norm_num)]
    norm_num
  · norm_num

/-- The bytes at POS, for the statements that name them. -/
def bytesAt (s : State) (k : Nat) : Byte := s.byte (s.pos.toNat + k)

/-- Each clause of the double read: eight bytes of a NaN, of one, and seven bytes. -/
theorem test_witness_FloatReads :
    (∀ k, bytesAt (block [0#8, 0#8, 0#8, 0#8, 0#8, 0#8, 0xF8#8, 0x7F#8]) k =
      (block [0#8, 0#8, 0#8, 0#8, 0#8, 0#8, 0xF8#8, 0x7F#8]).byte
        ((block [0#8, 0#8, 0#8, 0#8, 0#8, 0#8, 0xF8#8, 0x7F#8]).pos.toNat + k)) ∧
      (block [0#8, 0#8, 0#8, 0#8, 0#8, 0#8, 0xF8#8, 0x7F#8]).pos.toNat + 8 ≤
        (block [0#8, 0#8, 0#8, 0#8, 0#8, 0#8, 0xF8#8, 0x7F#8]).endAddr.toNat ∧
      NaN64 0x7FF8000000000000#64 ∧ ¬NaN64 0x3FF0000000000000#64 ∧
      (block [0#8, 0#8, 0#8, 0#8, 0#8, 0#8, 0xF8#8]).endAddr.toNat <
        (block [0#8, 0#8, 0#8, 0#8, 0#8, 0#8, 0xF8#8]).pos.toNat + 8 := by
  refine ⟨fun _ => rfl, by decide, ?_, ?_, by decide⟩ <;> unfold NaN64 <;> decide

theorem test_witness_FloatWrites : NaN64 (regs 0xFFFFFFFFFFFFFFFF#64 0#64).x[2] ∧ ¬NaN64 (regs 1#64 0#64).x[2] := by
  unfold NaN64
  decide

/-- Each cursor at the largest value that the invariant allows, the next value up, a value of more than 32 bits, and the
numbers of the read-only registers at the ends of their ranges. -/
theorem test_witness_MtcrWritesACursorOrFaultsCfg :
    ({ cursors 0#64 with start := 2#32 }.CursorInv ∧ ¬{ cursors 0#64 with start := 3#32 }.CursorInv) ∧
      ({ cursors 0#64 with endAddr := 0x10000#32 }.CursorInv ∧ ¬{ cursors 0#64 with endAddr := 0x10001#32 }.CursorInv) ∧
      ({ cursors 0#64 with pos := 23#32 }.CursorInv ∧ ¬{ cursors 0#64 with pos := 24#32 }.CursorInv) ∧
      ({ cursors 0#64 with wpos := 0x10000#32 }.CursorInv ∧ ¬{ cursors 0#64 with wpos := 0x10001#32 }.CursorInv) ∧
      2 ^ 32 ≤ (cursors 0x100000000#64).x[2].toNat ∧ (cursors 0xFFFFFFFF#64).x[2].toNat < 2 ^ 32 ∧ (0#8).toNat = 0 ∧
      5 ≤ (5#8).toNat ∧ (8#8).toNat ≤ 8 := by
  unfold State.CursorInv
  decide

/-- Both clauses at the boundary. -/
theorem test_witness_SetblkStartsABlockOrFaultsCfg :
    (regs 65535#64 1#64).x[2].toNat + (regs 65535#64 1#64).x[3].toNat ≤ (regs 65535#64 1#64).memBytes ∧
      (regs 65535#64 2#64).memBytes < (regs 65535#64 2#64).x[2].toNat + (regs 65535#64 2#64).x[3].toNat := by decide

/-- Both clauses at the boundary. -/
theorem test_witness_AdvMovesUpToEndAndAtendTests :
    (cursors 21#64).pos.toNat + (cursors 21#64).x[2].toNat ≤ (cursors 21#64).endAddr.toNat ∧
      (cursors 22#64).endAddr.toNat < (cursors 22#64).pos.toNat + (cursors 22#64).x[2].toNat := by decide

/-- The least value of two bytes and the largest of ten; k = 2 is long enough for the first. -/
theorem test_witness_VarintBytesAreTheShortestForm :
    (128 : Nat) < 2 ^ 64 ∧ (128 : Nat) < 2 ^ (7 * 2) ∧ (varintBytes 128).length = 2 ∧
      (varintBytes 0xFFFFFFFFFFFFFFFF).length = 10 := by decide

/-- The bytes at address 0 are what the scan statements call b, and their count is what they call avail. -/
theorem test_witness_scan_window (bs : List Byte) (h : bs.length < 2 ^ 32) :
    (∀ k, bytesAt (block bs) k = (block bs).byte ((block bs).pos.toNat + k)) ∧
      (block bs).endAddr.toNat = (block bs).pos.toNat + bs.length := by
  refine ⟨fun _ => rfl, ?_⟩
  simpa [block, State.reset] using h

/-- k bytes 0x80 and these after them. -/
def cont (k : Nat) (bs : List Byte) : State := block (List.replicate k 0x80#8 ++ bs)

/-- Four bytes 0x80, the byte e, k bytes 0xFF and these after them. -/
def wide (e : Byte) (k : Nat) (bs : List Byte) : State := cont 4 (e :: (List.replicate k 0xFF#8 ++ bs))

/-- The first clause at n = 1 and n = 4; the second at avail = 0 and avail = 4. -/
theorem test_witness_Varint32ScanByBytes_short :
    (bytesAt (cont 0 [0x7F#8]) 0).toNat < 0x80 ∧
      ((∀ k, k + 1 < 4 → 0x80 ≤ (bytesAt (cont 3 [0#8]) k).toNat) ∧ (bytesAt (cont 3 [0#8]) 3).toNat < 0x80) ∧
      (cont 0 []).endAddr.toNat = 0 ∧ (cont 4 []).endAddr.toNat = 4 ∧
      ∀ k < 4, 0x80 ≤ (bytesAt (cont 4 []) k).toNat := by
  refine ⟨by decide, ⟨fun k h => ?_, by decide⟩, by decide, by decide, by decide⟩
  have hk : k < 3 := by omega
  interval_cases k <;> decide

/-- The fifth byte at the ends of each of its three ranges. -/
theorem test_witness_Varint32ScanByBytes_fifth :
    (∀ k < 4, 0x80 ≤ (bytesAt (wide 0x0F#8 0 []) k).toNat) ∧ (bytesAt (wide 0x0F#8 0 []) 4).toNat < 0x10 ∧
      0x10 ≤ (bytesAt (wide 0x10#8 0 []) 4).toNat ∧ (bytesAt (wide 0xEF#8 0 []) 4).toNat < 0xF0 ∧
      0xF0 ≤ (bytesAt (wide 0xF0#8 0 []) 4).toNat := by decide

/-- The long form: the first bad byte at 5 and at 8; the block ending after 5 and after 9 bytes; the tenth byte at 0x80,
at 1 and at 0x7F. -/
theorem test_witness_Varint32ScanByBytes_long :
    bytesAt (wide 0xF0#8 0 [0xFE#8]) 5 ≠ 0xFF#8 ∧
      ((∀ k, 5 ≤ k → k < 8 → bytesAt (wide 0xF0#8 3 [0x7F#8]) k = 0xFF#8) ∧ bytesAt (wide 0xF0#8 3 [0x7F#8]) 8 ≠ 0xFF#8) ∧
      (wide 0xF0#8 0 []).endAddr.toNat = 5 ∧
      ((wide 0xF0#8 4 []).endAddr.toNat = 9 ∧ ∀ k, 5 ≤ k → k < 9 → bytesAt (wide 0xF0#8 4 []) k = 0xFF#8) ∧
      (∀ k, 5 ≤ k → k ≤ 8 → bytesAt (wide 0xF0#8 4 [0x80#8]) k = 0xFF#8) ∧
      0x80 ≤ (bytesAt (wide 0xF0#8 4 [0x80#8]) 9).toNat ∧ bytesAt (wide 0xF0#8 4 [0x01#8]) 9 = 0x01#8 ∧
      (bytesAt (wide 0xF0#8 4 [0x7F#8]) 9).toNat < 0x80 ∧ bytesAt (wide 0xF0#8 4 [0x7F#8]) 9 ≠ 0x01#8 := by
  refine ⟨by decide, ⟨fun k h1 h2 => ?_, by decide⟩, by decide, ⟨by decide, fun k h1 h2 => ?_⟩, fun k h1 h2 => ?_, by decide,
    by decide, by decide, by decide⟩
  · interval_cases k <;> decide
  · interval_cases k <;> decide
  · interval_cases k <;> decide

/-- The first clause at n = 1 and n = 10; ten bytes that continue; blocks that end after 0 and after 9 bytes. -/
theorem test_witness_Varint64ScanByBytes :
    (bytesAt (cont 0 [0x7F#8]) 0).toNat < 0x80 ∧
      ((∀ k < 9, 0x80 ≤ (bytesAt (cont 9 [0x7F#8]) k).toNat) ∧ (bytesAt (cont 9 [0x7F#8]) 9).toNat < 0x80) ∧
      (∀ k < 10, 0x80 ≤ (bytesAt (cont 10 []) k).toNat) ∧ (cont 0 []).endAddr.toNat = 0 ∧
      (cont 9 []).endAddr.toNat = 9 ∧ ∀ k < 9, 0x80 ≤ (bytesAt (cont 9 []) k).toNat := by decide

/-- Each clause: both scans with a value and with each of their errors. -/
theorem test_witness_VarintReads :
    varint32Scan (wide 0xFF#8 4 [0x01#8]).decByte = .ok (0xF0000000#32, 10) ∧
      varint64Scan (cont 9 [0x01#8]).decByte = .ok (0x8000000000000000#64, 10) ∧
      varint32Scan (block []).decByte = .error .pastEnd ∧
      varint32Scan (wide 0xFF#8 4 [0x80#8]).decByte = .error .varintLong ∧
      varint32Scan (cont 4 [0x10#8]).decByte = .error .varint32Bad ∧
      varint64Scan (block []).decByte = .error .pastEnd ∧
      varint64Scan (cont 10 []).decByte = .error .varintLong := ⟨rfl, rfl, rfl, rfl, rfl, rfl, rfl⟩

/-- Each clause at the boundary: blocks of exactly 1, 2 and 4 bytes, and of one byte less. -/
theorem test_witness_FixedReads :
    (∀ k, bytesAt (block [1#8, 2#8, 3#8, 4#8]) k =
      (block [1#8, 2#8, 3#8, 4#8]).byte ((block [1#8, 2#8, 3#8, 4#8]).pos.toNat + k)) ∧
      (block [1#8]).pos.toNat + 1 ≤ (block [1#8]).endAddr.toNat ∧
      (block [1#8, 2#8]).pos.toNat + 2 ≤ (block [1#8, 2#8]).endAddr.toNat ∧
      (block [1#8, 2#8, 3#8, 4#8]).pos.toNat + 4 ≤ (block [1#8, 2#8, 3#8, 4#8]).endAddr.toNat ∧
      (block []).endAddr.toNat < (block []).pos.toNat + 1 ∧ (block [1#8]).endAddr.toNat < (block [1#8]).pos.toNat + 2 ∧
      (block [1#8, 2#8, 3#8]).endAddr.toNat < (block [1#8, 2#8, 3#8]).pos.toNat + 4 := by
  refine ⟨fun _ => rfl, ?_⟩
  decide

theorem test_witness_Fixed64IsOneLittleEndianValue :
    ∀ k, bytesAt (block [1#8]) k = (block [1#8]).byte ((block [1#8]).pos.toNat + k) := fun _ => rfl

/-- Each clause: the end of the block; each scan error; wire types 6 and 5; field numbers 0 and 1. -/
theorem test_witness_NextfParsesATag :
    (block []).pos.toNat = (block []).endAddr.toNat ∧ (block [0x80#8]).pos.toNat ≠ (block [0x80#8]).endAddr.toNat ∧
      varint32Scan (block [0x80#8]).decByte = .error .pastEnd ∧
      ((wide 0xFF#8 4 [0x80#8]).pos.toNat ≠ (wide 0xFF#8 4 [0x80#8]).endAddr.toNat ∧
        varint32Scan (wide 0xFF#8 4 [0x80#8]).decByte = .error .varintLong) ∧
      ((cont 4 [0x10#8]).pos.toNat ≠ (cont 4 [0x10#8]).endAddr.toNat ∧
        varint32Scan (cont 4 [0x10#8]).decByte = .error .varint32Bad) ∧
      (varint32Scan (block [0x0E#8]).decByte = .ok (0x0E#32, 1) ∧ 5 < (0x0E#32).toNat % 8) ∧
      (varint32Scan (block [0x05#8]).decByte = .ok (0x05#32, 1) ∧ (0x05#32).toNat % 8 ≤ 5 ∧ (0x05#32).toNat / 8 = 0) ∧
      (varint32Scan (block [0x0D#8]).decByte = .ok (0x0D#32, 1) ∧ (0x0D#32).toNat % 8 ≤ 5 ∧ (0x0D#32).toNat / 8 ≠ 0) :=
  ⟨by decide, by decide, rfl, ⟨by decide, rfl⟩, ⟨by decide, rfl⟩, ⟨rfl, by decide⟩, ⟨rfl, by decide⟩, rfl, by decide⟩

/-- Both clauses: the field held has wire type 5; it has another; none is held. -/
theorem test_witness_WtchkChecksTheCurrentField :
    (5#8).toNat ≤ 5 ∧ (block []).status.fvalid = true ∧ (block []).tag.toNat % 8 = (5#8).toNat ∧
      (block []).tag.toNat % 8 ≠ (4#8).toNat ∧ State.reset.status.fvalid = false := by decide

theorem test_witness_WtagWritesATag : (5#8).toNat ≤ 5 := by decide

/-- Each of the five writes, at the value with the longest form that it takes, without a fault. -/
theorem test_witness_VarintWritesReadBack :
    Memory.wf (regs 0#64 0#64).mem ∧ (regs 0#64 0#64).status.fault = false ∧
      (∃ t, exec (.wvu32 2) (regs 0xFFFFFFFF#64 0#64) = .next t ∧ t.status.fault = false ∧ t.wpos = 5#32) ∧
      (∃ t, exec (.wvs32 2) (regs 0xFFFFFFFF80000000#64 0#64) = .next t ∧ t.status.fault = false ∧ t.wpos = 10#32) ∧
      (∃ t, exec (.wvz32 2) (regs 0xFFFFFFFF80000000#64 0#64) = .next t ∧ t.status.fault = false ∧ t.wpos = 5#32) ∧
      (∃ t, exec (.wv64 2) (regs 0xFFFFFFFFFFFFFFFF#64 0#64) = .next t ∧ t.status.fault = false ∧ t.wpos = 10#32) ∧
      ∃ t, exec (.wvz64 2) (regs 0x8000000000000000#64 0#64) = .next t ∧ t.status.fault = false ∧ t.wpos = 10#32 :=
  ⟨by decide, rfl, ⟨_, rfl, by decide, by decide⟩, ⟨_, rfl, by decide, by decide⟩, ⟨_, rfl, by decide, by decide⟩,
    ⟨_, rfl, by decide, by decide⟩, _, rfl, by decide, by decide⟩

/-- Both clauses: a NaN through WDBL, and the largest field number through WTAG, neither of which faults. -/
theorem test_witness_FixedAndTagWritesReadBack :
    Memory.wf (regs 0#64 0#64).mem ∧ (regs 0#64 0#64).status.fault = false ∧
      (∃ t, exec (.wdbl 2) (regs 0xFFF0000000000001#64 0#64) = .next t ∧ t.status.fault = false ∧
        NaN64 (regs 0xFFF0000000000001#64 0#64).x[2]) ∧
      ∃ t, exec (.wtag 2 5#8) (regs 0x1FFFFFFF#64 0#64) = .next t ∧ t.status.fault = false :=
  ⟨by decide, rfl, ⟨_, rfl, by decide, by unfold NaN64; decide⟩, _, rfl, by decide⟩

end Sys2Proof.Tests
end

section
/-! PROOFS. The register frame over all commands (10_state.md R10, 60_exceptions.md R242, R244, 40_split64.md R104), from
the ends that Laws/Exec.lean names. -/

namespace Sys2Proof.Machine

open Sys2Proof.Claims

variable {s t : State} {i : Instr} {r rd : Reg}

/-- Writing a command's one destination leaves every other register. -/
theorem getElem_set_of_notMem_dests (hd : dests i = [rd]) (v : Split64) (hr : r ∉ dests i) :
    (s.x.set rd v)[r] = s.x[r] :=
  s.reg_setReg_other rd r v (by rintro rfl; simp [hd] at hr)

/-- Writing a cursor register leaves the general registers. -/
theorem State.writeCursor_x {cr : BitVec 8} {v : Word} (h : s.writeCursor cr v = some t) : t.x = s.x := by
  unfold State.writeCursor at h
  split at h <;> cases h <;> rfl

/-- A command either leaves all general registers, or it succeeds and writes no register but its destinations. -/
theorem Ends.x_eq_or_writes_dests (h : Ends i s t) :
    t.x = s.x ∨
      ((∀ r, r ∉ dests i → t.x[r] = s.x[r]) ∧ t.status.fault = s.status.fault ∧
        (writesFail i = true → t.status.fail = false)) := by
  cases h with
  | fault | divZero | pass | block | moved | error | badField | wrote => exact .inl rfl
  | cursor _ _ _ _ ht => exact .inl (State.writeCursor_x ht :)
  | result _ v hd _ _ hf =>
    exact .inr ⟨fun _ => getElem_set_of_notMem_dests hd v, rfl, fun hw => by simp [hf] at hw⟩
  | read _ v _ _ hd => exact .inr ⟨fun _ => getElem_set_of_notMem_dests hd v, rfl, fun _ => rfl⟩
  | noField rd hi | field rd _ _ hi =>
    exact .inr ⟨fun _ => getElem_set_of_notMem_dests (hi ▸ rfl) _, rfl, fun _ => rfl⟩
  | div rd rs3 _ _ v w hi =>
    refine .inr ⟨fun q hq => ?_, rfl, fun _ => rfl⟩
    obtain ⟨hrd, hrs3⟩ : q ≠ rd ∧ q ≠ rs3 := by simpa [hi, dests] using hq
    calc ((s.setReg rd v).setReg rs3 w).reg q
      _ = (s.setReg rd v).reg q := State.reg_setReg_other _ rs3 q w hrs3.symm
      _ = s.reg q := s.reg_setReg_other rd q v hrd.symm

/-- Settles O23: a command that writes a register at all has succeeded, so it neither enters the fault state nor leaves
FAIL at 1. -/
theorem otherRegistersUnchanged : Obligations.OtherRegistersUnchanged := by
  intro i s t h
  obtain hx | ⟨hframe, hfault, hfail⟩ := (exec_ends_of_next s h).x_eq_or_writes_dests
  · simp [hx]
  · refine ⟨hframe, fun h0 h1 => ?_, fun hw h1 => ?_⟩
    · simp [hfault, h0] at h1
    · simp [hfail hw] at h1

end Sys2Proof.Machine
end

section
/-! PROOFS. The rules that the state family rests on: which classes of commands lie in which, the ranges of the codes of
60_exceptions.md R241 and R246, what MTCR of a cursor can do (44_cursor_moves.md R201), and everything a step can do
(30_encoding.md R70, 60_exceptions.md R240, R243, 70_reset_and_hazards.md R270, R275). -/

namespace Sys2Proof.Machine

open Sys2Proof.Claims

variable {s t : State} {i : Instr}

/-! ## Classes and codes -/

theorem canDecodeError_of_isRead (h : isRead i = true) : canDecodeError i = true := by
  unfold canDecodeError
  split
  · rfl
  · rfl
  · exact h

theorem writesFail_of_canDecodeError (h : canDecodeError i = true) : writesFail i = true := by
  unfold writesFail
  split
  · rfl
  · rfl
  · exact h

/-- The fault codes are 1 to 6 (R241). -/
theorem FaultCode.code_bounds (c : FaultCode) : 1 ≤ c.code.toNat ∧ c.code.toNat ≤ 6 := by
  cases c <;> decide

theorem FaultCode.code_ne_zero (c : FaultCode) : c.code ≠ 0#8 := by
  cases c <;> decide

/-- The decode-error codes are 1 to 5 (R246). -/
theorem DecodeError.code_le (e : DecodeError) : e.code.toNat ≤ 5 := by
  cases e <;> decide

theorem DecodeError.code_ne_zero (e : DecodeError) : e.code ≠ 0#4 := by
  cases e <;> decide

/-- The model's fault is the rule's (R242). -/
theorem State.raiseFault_eq_contractFault (c : FaultCode) (w0 : Word) :
    s.raiseFault c w0 = contractFault c.code w0 s := rfl

/-! ## Writing a cursor register (R201) -/

/-- Only the four cursors can change. -/
theorem State.writeCursor_only_cursors {cr : BitVec 8} {v : Word} (h : s.writeCursor cr v = some t) :
    ∃ a b c d, t = { s with start := a, endAddr := b, pos := c, wpos := d } := by
  unfold State.writeCursor at h
  split at h <;> cases h <;> exact ⟨_, _, _, _, rfl⟩

/-- Only the cursor with the number changes. -/
theorem State.writeCursor_other {cr : BitVec 8} {v : Word} (h : s.writeCursor cr v = some t) :
    (cr.toNat ≠ 1 → t.start = s.start) ∧ (cr.toNat ≠ 2 → t.endAddr = s.endAddr) ∧
      (cr.toNat ≠ 3 → t.pos = s.pos) ∧ (cr.toNat ≠ 4 → t.wpos = s.wpos) := by
  unfold State.writeCursor at h
  split at h <;> cases h <;> simp [*]

/-- Numbers 1 to 4 are the cursors. -/
theorem State.exists_writeCursor (s : State) {cr : BitVec 8} (v : Word) (h1 : 1 ≤ cr.toNat) (h4 : cr.toNat ≤ 4) :
    ∃ t, s.writeCursor cr v = some t := by
  obtain h | h | h | h : cr.toNat = 1 ∨ cr.toNat = 2 ∨ cr.toNat = 3 ∨ cr.toNat = 4 := by omega
  all_goals simp [State.writeCursor, h]

/-- MTCR of a cursor writes it and keeps the invariant, or is the CFG fault. -/
theorem execMtcr_cursor_cases (s : State) {cr : BitVec 8} (r : Reg) (h1 : 1 ≤ cr.toNat) (h4 : cr.toNat ≤ 4) :
    (∃ t, s.writeCursor cr (lo (s.reg r)) = some t ∧ t.CursorInv ∧ execMtcr cr r s = .next (t.advance 1)) ∨
      execMtcr cr r s = .next (s.raiseFault .cfg (Instr.mtcr cr r).word0) := by
  obtain ⟨t, ht⟩ := s.exists_writeCursor (lo (s.reg r)) h1 h4
  have hcr : crLegal cr = true := decide_eq_true (by omega)
  simp only [execMtcr, hcr, ht, if_true]
  split
  · rename_i hok
    exact .inl ⟨t, rfl, t.cursorsOk_iff.1 hok.2, rfl⟩
  · exact .inr rfl

/-! ## Everything a step can do -/

/-- How a step that answers a next state ends. -/
inductive StepEnds (s : State) : State → Prop
  /-- nothing sent (R275), or a word that a halted unit discards (R243) -/
  | kept (rest : List HostAction) : StepEnds s { s with input := rest }
  /-- word 0 of a two-word command goes to the latch (R34) -/
  | latched (w : Word) (rest : List HostAction) (hr : s.ready) (hw : isTwoWord w = true) :
      StepEnds s { s with latch := some w, input := rest }
  /-- a byte through the host memory port (R60) -/
  | stored (a : Word) (b : Byte) (rest : List HostAction) (hl : s.latch = none) (ha : a.toNat < s.memBytes) :
      StepEnds s { s with mem := s.mem.write a.toNat b, input := rest }
  /-- reset (R270) -/
  | reset (rest : List HostAction) : StepEnds s { s.resetUnit with input := rest }
  /-- words that are no command (R77) -/
  | illegal (w0 : Word) (rest : List HostAction) (hf : s.status.fault = false) :
      StepEnds s (({ s with latch := none, input := rest } : State).raiseFault .illegal w0)
  /-- a command of a unit that is not halted, its words taken (R73) -/
  | ran (i : Instr) (rest : List HostAction) (t : State) (hf : s.status.fault = false)
      (h : Ends i { s with latch := none, input := rest } t) : StepEnds s t

/-- How a step ends that takes the words of a command. -/
theorem StepEnds.of_command {s' : State} {w0 : Word} {words : List Word} {rest : List HostAction}
    (hf : s.status.fault = false) (hk : s'.take = .command w0 words { s with latch := none, input := rest })
    (h : step s' = .next t) : StepEnds s t := by
  simp only [step, hk] at h
  split at h
  · exact .ran _ rest t hf (exec_ends_of_next _ h)
  · cases h
    exact .illegal w0 rest hf

/-- How a step ends that takes a command word. -/
theorem StepEnds.of_word (w : Word) (rest : List HostAction) (h : step (s.sent w rest) = .next t) : StepEnds s t := by
  by_cases hf : s.status.fault = true
  · rw [step_halted s w rest hf] at h
    cases h
    exact .kept rest
  rw [Bool.not_eq_true] at hf
  cases hl : s.latch with
  | some w0 =>
    have hk : (s.sent w rest).take = .command w0 [w0, w] { s with latch := none, input := rest } := by
      simp [State.take, State.takeWord, State.sent, hf, hl]
    exact .of_command hf hk h
  | none =>
    have hready : s.ready := ⟨hf, hl⟩
    cases hw : isTwoWord w with
    | false =>
      have hk : (s.sent w rest).take = .command w [w] { s with latch := none, input := rest } := by
        simp [State.take, State.takeWord, State.sent, hf, hl, hw]
      exact .of_command hf hk h
    | true =>
      by_cases hr : ∃ w1 rest', rest = .word w1 :: rest'
      · obtain ⟨w1, rest', rfl⟩ := hr
        have hk : (s.sent w (.word w1 :: rest')).take = .command w [w, w1] { s with latch := none, input := rest' } := by
          simp [State.take, State.takeWord, State.sent, hf, hl, hw]
        exact .of_command hf hk h
      · rw [step_latches s w rest hready hw fun w1 rest' e => hr ⟨w1, rest', e⟩] at h
        cases h
        exact .latched w rest hready hw

/-- How a step ends that takes a write of the host memory port. -/
theorem StepEnds.of_memWrite (a : Word) (b : Byte) (rest : List HostAction)
    (h : step { s with input := .memWrite a b :: rest } = .next t) : StepEnds s t := by
  by_cases hl : s.latch = none
  · by_cases ha : a.toNat < s.memBytes
    · rw [step_memWrite s a b rest hl ha] at h
      cases h
      exact .stored a b rest hl ha
    · rw [step_memWrite_outside s a b rest hl (Nat.not_lt.1 ha)] at h
      cases h
  · rw [step_memWrite_busy s a b rest hl] at h
    cases h

/-- A next state of `step` is one of the ends. -/
theorem step_ends_of_next (h : step s = .next t) : StepEnds s t := by
  cases hin : s.input with
  | nil =>
    rw [step_idle s hin] at h
    cases h
    exact .kept s.input
  | cons a rest =>
    have hs : s = { s with input := a :: rest } := by rw [← hin]
    rw [hs] at h
    cases a with
    | word w => exact .of_word w rest h
    | memWrite a b => exact .of_memWrite a b rest h
    | reset =>
      rw [step_reset] at h
      cases h
      exact .reset rest

/-- What every step keeps holds after every run that answers a next state. -/
theorem run_keeps {M : Host.Core} {P : M.State → Prop} (hstep : ∀ s t, P s → M.step s = .next t → P t) (n : Nat) :
    ∀ s t, P s → M.run n s = .next t → P t := by
  induction n with
  | zero =>
    intro s t hs h
    cases h
    exact hs
  | succ n ih =>
    intro s t hs h
    rw [Host.Core.run] at h
    split at h
    · rename_i s' hst
      exact ih s' t (hstep s s' hs hst) h
    · cases h
    · cases h

end Sys2Proof.Machine
end

section
/-! PROOFS. The invariant of Safety.lean, part by part: cursors (10_state.md R32), MEM (20_memory.md R50), STATUS, FCMD and
latch (60_exceptions.md R241 to R246, 10_state.md R30, R34), the held field (45_field_tag.md R220, R222). Each part holds at
power-up, every command keeps it, and every step keeps it. -/

namespace Sys2Proof.Machine

open Sys2Proof.Claims

variable {s t : State} {i : Instr}

/-! ## The cursors -/

theorem State.powerUp_cursorInv (c : Config) (m : Memory) : (State.powerUp c m).CursorInv :=
  ⟨Nat.le_refl _, Nat.le_refl _, Nat.zero_le _, Nat.zero_le _⟩

/-- POS moved within the block keeps the order. -/
theorem State.CursorInv.pos_add (hi : s.CursorInv) {n : Nat} (h : s.pos.toNat + n ≤ s.endAddr.toNat) :
    ({ s with pos := s.pos + BitVec.ofNat 32 n } : State).CursorInv := by
  obtain ⟨h1, h2, h3, h4⟩ := hi
  have hp := s.pos_add_toNat n h
  exact ⟨by dsimp only; omega, by dsimp only; omega, h3, h4⟩

/-- A block that fits in MEM has its cursors in order. -/
theorem State.CursorInv.block (hi : s.CursorInv) {a n : Nat} (h : a + n ≤ s.memBytes) :
    ({ s with start := BitVec.ofNat 32 a, pos := BitVec.ofNat 32 a, endAddr := BitVec.ofNat 32 (a + n) } :
      State).CursorInv := by
  obtain ⟨-, -, -, h4⟩ := hi
  obtain ⟨-, hmax⟩ := s.memBytes_bounds
  have ha : (BitVec.ofNat 32 a).toNat = a := Nat.mod_eq_of_lt (by omega)
  have hn : (BitVec.ofNat 32 (a + n)).toNat = a + n := Nat.mod_eq_of_lt (by omega)
  exact ⟨Nat.le_refl _, by dsimp only; omega, hn.trans_le h, h4⟩

/-- Every command keeps the cursors in order. -/
theorem Ends.cursorInv (h : Ends i s t) (hi : s.CursorInv) : t.CursorInv := by
  cases h with
  | fault | result | divZero | div | pass | error | noField | badField => exact hi
  | cursor _ _ _ _ _ hc => exact hc
  | block _ _ _ h => exact hi.block h
  | moved _ _ h | read _ _ _ _ _ _ _ h | field _ _ _ _ _ _ h => exact hi.pos_add h
  | wrote bs _ h =>
    obtain ⟨h1, h2, h3, -⟩ := hi
    exact ⟨h1, h2, h3, (s.wpos_add_toNat _ h).trans_le h⟩

/-- Every step keeps the cursors in order. -/
theorem StepEnds.cursorInv (h : StepEnds s t) (hi : s.CursorInv) : t.CursorInv := by
  cases h with
  | kept | latched | stored | illegal => exact hi
  | reset => exact State.powerUp_cursorInv s.cfg s.mem
  | ran i rest t _ h => exact h.cursorInv hi

/-! ## MEM -/

/-- Bytes written inside MEM keep its canonical form and its bounds. -/
theorem State.MemInv.writeBytes (hi : s.MemInv) {a : Nat} {bs : List Byte} (h : a + bs.length ≤ s.memBytes) :
    ({ s with mem := s.mem.writeBytes a bs } : State).MemInv := by
  obtain ⟨hwf, hin⟩ := hi
  refine ⟨Memory.writeBytes_wf bs s.mem a hwf, fun c hc => ?_⟩
  obtain ⟨-, hlt⟩ | hold := Memory.mem_writeBytes bs s.mem a c hc
  · exact hlt.trans_le h
  · exact hin c hold

/-- Every command keeps MEM canonical and inside its bounds. -/
theorem Ends.memInv (h : Ends i s t) (hi : s.MemInv) : t.MemInv := by
  cases h with
  | fault | result | divZero | div | pass | block | moved | read | error | noField | badField | field => exact hi
  | cursor _ _ _ _ ht =>
    obtain ⟨_, _, _, _, rfl⟩ := State.writeCursor_only_cursors ht
    exact hi
  | wrote bs _ h => exact hi.writeBytes h

/-- Every step keeps MEM canonical and inside its bounds. -/
theorem StepEnds.memInv (h : StepEnds s t) (hi : s.MemInv) : t.MemInv := by
  cases h with
  | kept | latched | reset | illegal => exact hi
  | stored a b _ _ ha => exact hi.writeBytes (bs := [b]) ha
  | ran i rest t _ h => exact h.memInv hi

/-! ## STATUS, FCMD and the latch -/

theorem State.powerUp_statusInv (c : Config) (m : Memory) : (State.powerUp c m).StatusInv := by
  simp [State.StatusInv]

/-- A contract fault in a unit whose latch is empty. -/
theorem State.StatusInv.raiseFault (hi : s.StatusInv) (hl : s.latch = none) (c : FaultCode) (w0 : Word) :
    (s.raiseFault c w0).StatusInv := by
  obtain ⟨hecode, -, hderr, -, -, hlatch, -⟩ := hi
  exact ⟨hecode, c.code_bounds.2, hderr, by simp [c.code_ne_zero], by simp, hlatch, fun _ => hl⟩

theorem State.StatusInv.raiseDecodeError (hi : s.StatusInv) (e : DecodeError) : (s.raiseDecodeError e).StatusInv := by
  obtain ⟨hecode, hfcode, -, hfault, hfcmd, hlatch, hhalt⟩ := hi
  refine ⟨?_, hfcode, ?_, hfault, hfcmd, hlatch, hhalt⟩
  all_goals
    by_cases h0 : s.status.ecode = 0#4
    · simp [h0, e.code_le, e.code_ne_zero]
    · simp [h0, hecode]

/-- Taking a command's words empties the latch. -/
theorem State.StatusInv.takeWords (hi : s.StatusInv) (rest : List HostAction) :
    ({ s with latch := none, input := rest } : State).StatusInv := by
  obtain ⟨hecode, hfcode, hderr, hfault, hfcmd, -, -⟩ := hi
  exact ⟨hecode, hfcode, hderr, hfault, hfcmd, by simp, by simp⟩

/-- Every command of a unit whose latch is empty keeps the codes in step with DERR and FAULT. -/
theorem Ends.statusInv (h : Ends i s t) (hl : s.latch = none) (hi : s.StatusInv) : t.StatusInv := by
  cases h with
  | fault c => exact hi.raiseFault hl c i.word0
  | result | divZero | div | pass | moved | read | noField | field | wrote => exact hi
  | cursor _ _ _ _ ht =>
    obtain ⟨_, _, _, _, rfl⟩ := State.writeCursor_only_cursors ht
    exact hi
  | block =>
    obtain ⟨-, hfcode, -, hfault, hfcmd, hlatch, hhalt⟩ := hi
    exact ⟨Nat.zero_le _, hfcode, by simp, hfault, hfcmd, hlatch, hhalt⟩
  | error e | badField _ e => exact State.StatusInv.raiseDecodeError hi e

/-- Every step keeps the codes in step with DERR and FAULT, and the latch as R34 and R243 say. -/
theorem StepEnds.statusInv (h : StepEnds s t) (hi : s.StatusInv) : t.StatusInv := by
  cases h with
  | kept | stored => exact hi
  | latched w rest hr hw =>
    obtain ⟨hecode, hfcode, hderr, hfault, hfcmd, -, -⟩ := hi
    exact ⟨hecode, hfcode, hderr, hfault, hfcmd, fun _ h => by cases h; exact hw, by simp [hr.1]⟩
  | reset => exact State.powerUp_statusInv s.cfg s.mem
  | illegal w0 rest => exact (hi.takeWords rest).raiseFault rfl .illegal w0
  | ran i rest t _ h => exact h.statusInv rfl (hi.takeWords rest)

/-! ## The held field -/

/-- Without a held field there is nothing to say of TAG. -/
theorem State.fieldInv_of_not_fvalid (h : s.status.fvalid = false) : s.FieldInv := by
  simp [State.FieldInv, h]

/-- Every command keeps a held field legal. -/
theorem Ends.fieldInv (h : Ends i s t) (hi : s.FieldInv) : t.FieldInv := by
  cases h with
  | fault | result | divZero | div | pass | moved | read | error | wrote => exact hi
  | cursor _ _ _ _ ht =>
    obtain ⟨_, _, _, _, rfl⟩ := State.writeCursor_only_cursors ht
    exact hi
  | block | noField | badField => exact State.fieldInv_of_not_fvalid rfl
  | field _ _ _ _ _ _ _ hw hf => exact fun _ => ⟨hw, hf⟩

/-- Every step keeps a held field legal. -/
theorem StepEnds.fieldInv (h : StepEnds s t) (hi : s.FieldInv) : t.FieldInv := by
  cases h with
  | kept | latched | stored | illegal => exact hi
  | reset => exact State.fieldInv_of_not_fvalid rfl
  | ran i rest t _ h => exact h.fieldInv hi

/-! ## The whole invariant -/

/-- Settles O13: each of the four parts is kept by every end of a step. -/
theorem stepKeepsTheInvariant : Obligations.StepKeepsTheInvariant := by
  intro s t ⟨hcursor, hmem, hstatus, hfield⟩ h
  have he := step_ends_of_next h
  exact ⟨he.cursorInv hcursor, he.memInv hmem, he.statusInv hstatus, he.fieldInv hfield⟩

/-- Settles O14: MEM's part is the premise, the other parts hold of zeros. -/
theorem powerUpMeetsTheInvariant : Obligations.PowerUpMeetsTheInvariant := by
  have hinv (c : Config) (m : Memory) (hwf : Memory.wf m) (hin : ∀ e ∈ m, e.1 < c.memBytes) : (State.powerUp c m).Inv :=
    ⟨State.powerUp_cursorInv c m, ⟨hwf, hin⟩, State.powerUp_statusInv c m, State.fieldInv_of_not_fvalid rfl⟩
  exact ⟨hinv, hinv Config.exampleSize [] Memory.nil_wf (by simp)⟩

/-- MTCR of a cursor writes it in one command that keeps the cursors in order, or is the CFG fault (R201). -/
theorem exec_mtcr_cursorInv_or_cfg (s : State) {cr : BitVec 8} (r : Reg) (h1 : 1 ≤ cr.toNat) (h4 : cr.toNat ≤ 4) :
    ∃ t, exec (.mtcr cr r) s = .next t ∧
      (t.cp = s.cp + 1#32 ∧ t.CursorInv ∨ t = contractFault 6#8 (Instr.mtcr cr r).word0 s) := by
  obtain ⟨t, ht, hc, e⟩ | e := execMtcr_cursor_cases s r h1 h4
  · obtain ⟨_, _, _, _, rfl⟩ := State.writeCursor_only_cursors ht
    exact ⟨_, e, .inl ⟨rfl, hc⟩⟩
  · exact ⟨_, e, .inr rfl⟩

/-- SETBLK starts a block in one command that keeps the cursors in order, or is the CFG fault (R202). -/
theorem exec_setblk_cursorInv_or_cfg (hi : s.CursorInv) (a n : Reg) :
    ∃ t, exec (.setblk a n) s = .next t ∧
      (t.cp = s.cp + 1#32 ∧ t.CursorInv ∨ t = contractFault 6#8 (Instr.setblk a n).word0 s) := by
  by_cases h : s.memBytes < u (s.reg a) + u (s.reg n)
  · exact ⟨_, if_pos h, .inr rfl⟩
  · exact ⟨_, if_neg h, .inl ⟨rfl, hi.block (Nat.not_lt.1 h)⟩⟩

/-- Settles O15: the cursors are in order at power-up, every step keeps them so, hence every run; MTCR and SETBLK check the
order before they write. -/
theorem cursorsStayInOrder : Obligations.CursorsStayInOrder := by
  have hstep (s t : State) (hi : s.CursorInv) (h : step s = .next t) : t.CursorInv := (step_ends_of_next h).cursorInv hi
  refine ⟨hstep, fun c m acts n t h => ?_, fun s i hi hcmd => ?_⟩
  · have hinit : ({ State.powerUp c m with input := acts } : State).CursorInv := State.powerUp_cursorInv c m
    exact run_keeps (M := Sys2Proof.core) hstep n _ t hinit h
  · obtain ⟨cr, r, rfl, h1, h4⟩ | ⟨a, n, rfl⟩ := hcmd
    · exact exec_mtcr_cursorInv_or_cfg s r h1 h4
    · exact exec_setblk_cursorInv_or_cfg hi a n

end Sys2Proof.Machine
end

section
/-! PROOFS. The frames of the control registers (10_state.md R25 to R30) and of the STATUS fields (R24, 60_exceptions.md
R242 to R246) over all commands: for each register or field, the ends of a command that change it are those of the commands
that may. -/

namespace Sys2Proof.Machine

open Sys2Proof.Claims

variable {s t : State} {i : Instr}

/-! ## Control registers -/

/-- START and END. -/
theorem Ends.start_endAddr_eq (h : Ends i s t) (hm : ∀ cr r, i ≠ .mtcr cr r) (hb : ∀ a b, i ≠ .setblk a b) :
    t.start = s.start ∧ t.endAddr = s.endAddr := by
  cases h with
  | fault | result | divZero | div | pass | moved | read | error | noField | badField | field | wrote =>
    exact ⟨rfl, rfl⟩
  | cursor cr r _ hi => exact absurd hi (hm cr r)
  | block a n hi => exact absurd hi (hb a n)

/-- POS. -/
theorem Ends.pos_eq (h : Ends i s t) (hm : ∀ cr r, i ≠ .mtcr cr r) (hb : ∀ a b, i ≠ .setblk a b)
    (hd : canDecodeError i = false) : t.pos = s.pos := by
  cases h with
  | fault | result | divZero | div | pass | error | noField | badField | wrote => rfl
  | cursor cr r _ hi => exact absurd hi (hm cr r)
  | block a n hi => exact absurd hi (hb a n)
  | moved _ hi | field _ _ _ hi => simp [hi, canDecodeError] at hd
  | read _ _ _ hi => simp [canDecodeError_of_isRead hi] at hd

/-- WPOS. -/
theorem Ends.wpos_eq (h : Ends i s t) (hm : ∀ cr r, i ≠ .mtcr cr r) (hw : isWrite i = false) : t.wpos = s.wpos := by
  cases h with
  | fault | result | divZero | div | pass | block | moved | read | error | noField | badField | field => rfl
  | cursor cr r _ hi => exact absurd hi (hm cr r)
  | wrote _ hi => simp [hi] at hw

/-- TAG. -/
theorem Ends.tag_eq (h : Ends i s t) (hb : ∀ a b, i ≠ .setblk a b) (hn : ∀ rd, i ≠ .nextf rd) : t.tag = s.tag := by
  cases h with
  | fault | result | divZero | div | pass | moved | read | error | badField | wrote => rfl
  | cursor _ _ _ _ ht =>
    obtain ⟨_, _, _, _, rfl⟩ := State.writeCursor_only_cursors ht
    rfl
  | block a n hi => exact absurd hi (hb a n)
  | noField rd hi | field rd _ _ hi => exact absurd hi (hn rd)

/-- MTCR changes no cursor but the one it names (R201). -/
theorem Ends.mtcr_other {cr : BitVec 8} {r : Reg} (h : Ends (.mtcr cr r) s t) :
    (cr.toNat ≠ 1 → t.start = s.start) ∧ (cr.toNat ≠ 2 → t.endAddr = s.endAddr) ∧
      (cr.toNat ≠ 3 → t.pos = s.pos) ∧ (cr.toNat ≠ 4 → t.wpos = s.wpos) := by
  cases h with
  | fault => exact ⟨fun _ => rfl, fun _ => rfl, fun _ => rfl, fun _ => rfl⟩
  | cursor _ _ _ hi ht =>
    cases hi
    exact (State.writeCursor_other ht :)
  | result _ _ hd => cases hd
  | read _ _ _ hi | error _ hi | wrote _ hi => cases hi
  | divZero _ _ _ _ hi | div _ _ _ _ _ _ hi | pass _ hi | block _ _ hi | moved _ hi | noField _ hi | badField _ _ hi
    | field _ _ _ hi => cases hi

/-- FCMD. -/
theorem Ends.fcmd_eq (h : Ends i s t) (hf : t.status.fault = false) : t.fcmd = s.fcmd := by
  cases h with
  | fault => cases hf
  | result | divZero | div | pass | block | moved | read | error | noField | badField | field | wrote => rfl
  | cursor _ _ _ _ ht =>
    obtain ⟨_, _, _, _, rfl⟩ := State.writeCursor_only_cursors ht
    rfl

/-- The size, the latch and the host's actions are no command's. -/
theorem Ends.cfg_latch_input_eq (h : Ends i s t) : t.cfg = s.cfg ∧ t.latch = s.latch ∧ t.input = s.input := by
  cases h with
  | fault | result | divZero | div | pass | block | moved | read | error | noField | badField | field | wrote =>
    exact ⟨rfl, rfl, rfl⟩
  | cursor _ _ _ _ ht =>
    obtain ⟨_, _, _, _, rfl⟩ := State.writeCursor_only_cursors ht
    exact ⟨rfl, rfl, rfl⟩

/-- Settles O24: one lemma per register. -/
theorem otherControlRegistersUnchanged : Obligations.OtherControlRegistersUnchanged := by
  intro i s t h
  have he := exec_ends_of_next s h
  refine ⟨fun hm hb => ?_, he.wpos_eq, he.tag_eq, ?_, he.fcmd_eq, he.cfg_latch_input_eq⟩
  · obtain ⟨hstart, hend⟩ := he.start_endAddr_eq hm hb
    exact ⟨hstart, hend, he.pos_eq hm hb⟩
  · rintro cr r rfl
    exact he.mtcr_other

/-! ## STATUS fields -/

/-- FVALID. -/
theorem Ends.fvalid_eq (h : Ends i s t) (hb : ∀ a b, i ≠ .setblk a b) (hn : ∀ rd, i ≠ .nextf rd) :
    t.status.fvalid = s.status.fvalid := by
  cases h with
  | fault | result | divZero | div | pass | moved | read | error | wrote => rfl
  | cursor _ _ _ _ ht =>
    obtain ⟨_, _, _, _, rfl⟩ := State.writeCursor_only_cursors ht
    rfl
  | block a n hi => exact absurd hi (hb a n)
  | noField rd hi | badField rd _ hi | field rd _ _ hi => exact absurd hi (hn rd)

/-- DERR and ECODE are left alone, or a decode error is recorded in them (R244). -/
theorem Ends.derr_ecode_cases (h : Ends i s t) (hb : ∀ a b, i ≠ .setblk a b) :
    (t.status.derr = s.status.derr ∧ t.status.ecode = s.status.ecode) ∨
      (canDecodeError i = true ∧ ∃ e : DecodeError, t.status.derr = true ∧
        t.status.ecode = if s.status.ecode = 0#4 then e.code else s.status.ecode) := by
  cases h with
  | fault | result | divZero | div | pass | moved | read | noField | field | wrote => exact .inl ⟨rfl, rfl⟩
  | cursor _ _ _ _ ht =>
    obtain ⟨_, _, _, _, rfl⟩ := State.writeCursor_only_cursors ht
    exact .inl ⟨rfl, rfl⟩
  | block a n hi => exact absurd hi (hb a n)
  | error e hi => exact .inr ⟨hi, e, rfl, rfl⟩
  | badField _ e hi => exact .inr ⟨hi ▸ rfl, e, rfl, rfl⟩

/-- FAIL. -/
theorem Ends.fail_eq (h : Ends i s t) (hw : writesFail i = false) : t.status.fail = s.status.fail := by
  have hd : canDecodeError i ≠ true := fun hd => by simp [writesFail_of_canDecodeError hd] at hw
  cases h with
  | fault | result | pass | wrote => rfl
  | cursor _ _ _ _ ht =>
    obtain ⟨_, _, _, _, rfl⟩ := State.writeCursor_only_cursors ht
    rfl
  | divZero _ _ _ _ hi | div _ _ _ _ _ _ hi | block _ _ hi => simp [hi, writesFail] at hw
  | moved _ hi | noField _ hi | badField _ _ hi | field _ _ _ hi => exact absurd (hi ▸ rfl) hd
  | read _ _ _ hi => exact absurd (canDecodeError_of_isRead hi) hd
  | error _ hi => exact absurd hi hd

/-- FAULT and FCODE. -/
theorem Ends.fault_fcode_eq (h : Ends i s t) (hf : ¬Faults i s t) :
    t.status.fault = s.status.fault ∧ t.status.fcode = s.status.fcode := by
  cases h with
  | fault c =>
    obtain ⟨h1, h6⟩ := c.code_bounds
    exact absurd ⟨c.code, h1, h6, State.raiseFault_eq_contractFault c i.word0⟩ hf
  | result | divZero | div | pass | block | moved | read | error | noField | badField | field | wrote =>
    exact ⟨rfl, rfl⟩
  | cursor _ _ _ _ ht =>
    obtain ⟨_, _, _, _, rfl⟩ := State.writeCursor_only_cursors ht
    exact ⟨rfl, rfl⟩

/-- Settles O25: one lemma per field. -/
theorem otherStatusFieldsUnchanged : Obligations.OtherStatusFieldsUnchanged := by
  intro i s t h
  have he := exec_ends_of_next s h
  refine ⟨he.fvalid_eq, fun hb hd => ?_, he.fail_eq, he.fault_fcode_eq⟩
  obtain hsame | ⟨hd', -⟩ := he.derr_ecode_cases hb
  · exact hsame
  · simp [hd] at hd'

/-- Settles O18: a further decode error sets DERR again and leaves an ECODE that is not 0. -/
theorem firstDecodeErrorStaysUntilSetblk : Obligations.FirstDecodeErrorStaysUntilSetblk := by
  intro i s t hb h
  obtain ⟨hderr, hecode⟩ | ⟨-, e, hderr, hecode⟩ := (exec_ends_of_next s h).derr_ecode_cases hb
  · exact ⟨hderr.trans, fun _ => hecode⟩
  · exact ⟨fun _ => hderr, fun h0 => hecode.trans (if_neg h0)⟩

end Sys2Proof.Machine
end

section
/-! PROOFS. The latch (10_state.md R34, 70_reset_and_hazards.md R275) and the values after power-up (10_state.md R38). -/

namespace Sys2Proof.Machine

open Sys2Proof.Claims

variable {s : State}

/-- A unit whose latch is full answers no host read (R60, R255; log 4). -/
theorem State.host_reads_none_of_latched {w0 : Word} (hl : s.latch = some w0) :
    (∀ a, s.hostReadByte a = none) ∧ (∀ r, s.inspectReg r = none) ∧ (∀ cr, s.inspectCr cr = none) := by
  have hidle : s.idle = false := by simp [State.idle, hl]
  simp [State.hostReadByte, State.inspectReg, State.inspectCr, hidle]

/-- Settles O8: each clause is one of the rules of Laws/Ops.lean for what a step takes. -/
theorem latchHoldsWordZeroUntilWordOneArrives : Obligations.LatchHoldsWordZeroUntilWordOneArrives := by
  refine ⟨step_idle, fun s w0 hf => ⟨fun hl hw => ?_, fun hl => ?_⟩⟩
  · exact step_latches s w0 [] ⟨hf, hl⟩ hw nofun
  · obtain ⟨hbyte, hreg, hcr⟩ := State.host_reads_none_of_latched hl
    refine ⟨hbyte, hreg, hcr, fun w1 rest i hd => ?_, fun w1 rest e hd => ?_, fun rest => ?_⟩
    · rw [step_latched s w0 w1 rest hf hl, hd]
    · rw [step_latched s w0 w1 rest hf hl, hd]
      rfl
    · exact ⟨_, step_reset s rest, rfl, rfl⟩

/-- STATUS reads 0 when every field is 0 (R24). -/
@[simp] theorem Status.word_zero : Status.zero.word = 0#32 := by decide

/-- Settles O11: the values are those that `State.powerUp` writes out. -/
theorem powerUpValues : Obligations.PowerUpValues := by
  refine ⟨fun c m => ⟨fun r => ?_, Status.word_zero, rfl, rfl, rfl, rfl, rfl, rfl, rfl, rfl, rfl, fun _ => rfl⟩, _, _, rfl⟩
  simp

end Sys2Proof.Machine
end

section
/-! PROOFS. The host ports (20_memory.md R60, 60_exceptions.md R255). -/

namespace Sys2Proof.Machine

open Sys2Proof.Claims

/-- A unit whose latch is empty answers every host read of what it has (R60, R255). -/
theorem State.host_reads_of_idle (s : State) (hl : s.latch = none) :
    (∀ a, a < s.memBytes → s.hostReadByte a = some (s.byte a)) ∧ (∀ r : Reg, s.inspectReg r = some s.x[r]) ∧
      (∀ cr, s.inspectCr cr = s.readCr cr) := by
  have hidle : s.idle = true := by simp [State.idle, hl]
  refine ⟨fun a ha => ?_, fun r => ?_, fun cr => ?_⟩
  · exact if_pos ⟨hidle, ha⟩
  · simp [State.inspectReg, hidle, State.reg]
  · simp [State.inspectCr, hidle]

/-- Settles O12: the rules of Laws/Ops.lean for a memory-port write, those of Laws/Memory.lean for the byte written, and
what the ports read while idle and while not. -/
theorem hostPortsReadAndWriteWhileIdle : Obligations.HostPortsReadAndWriteWhileIdle := by
  intro s a b rest hwf
  refine ⟨fun hl ha => ?_, fun hl ha => step_memWrite_outside s a b rest hl ha, fun hl => ?_, fun hl => ?_⟩
  · exact ⟨_, step_memWrite s a b rest hl ha, Memory.read_write_self s.mem _ b hwf,
      fun k hk => Memory.read_write_other s.mem _ k b hk.symm, Memory.write_wf s.mem _ b hwf,
      (s.host_reads_of_idle hl).1 _ ha⟩
  · exact (s.host_reads_of_idle hl).2
  · obtain ⟨w0, hw⟩ := Option.ne_none_iff_exists'.1 hl
    obtain ⟨hbyte, hreg, hcr⟩ := State.host_reads_none_of_latched hw
    exact ⟨step_memWrite_busy s a b rest hl, hbyte _, hreg, hcr⟩

end Sys2Proof.Machine
end

section
/-! PROOFS. The decoder window (20_memory.md R52, 41_varint.md R130): a read looks at MEM only from POS up to END, so
another memory that agrees there gives the same read. -/

namespace Sys2Proof.Machine

open Sys2Proof.Claims

variable {s : State} {m : Memory}

/-- How a read ends does not depend on MEM. -/
theorem State.finishRead_withMem (rd : Reg) (r : Except DecodeError (Split64 × Nat)) :
    ({ s with mem := m } : State).finishRead rd r = { s.finishRead rd r with mem := m } := by
  cases r <;> rfl

section
variable (h : ∀ a, s.pos.toNat ≤ a → a < s.endAddr.toNat → m.read a = s.mem.read a)
include h

theorem State.decByte_withMem : ({ s with mem := m } : State).decByte = s.decByte := by
  funext i
  simp only [State.decByte]
  split
  · rfl
  · exact congrArg _ (h _ (by omega) (by omega))

theorem State.fixRead_withMem (n : Nat) : ({ s with mem := m } : State).fixRead n = s.fixRead n := by
  simp only [State.fixRead]
  split
  · rfl
  · exact congrArg _ (Memory.readLE_congr n _ fun _ _ => h _ (by omega) (by omega))

theorem State.twoWords_withMem (hn : s.pos.toNat + 8 ≤ s.endAddr.toNat) :
    ({ s with mem := m } : State).twoWords = s.twoWords := by
  simp only [State.twoWords]
  rw [Memory.readLE_congr 4 _ fun _ _ => h _ (by omega) (by omega),
    Memory.readLE_congr 4 _ fun _ _ => h _ (by omega) (by omega)]

theorem State.readVarint32_withMem (rd : Reg) (f : Word → Split64) :
    ({ s with mem := m } : State).readVarint32 rd f = { s.readVarint32 rd f with mem := m } := by
  rw [State.readVarint32, State.decByte_withMem h]
  exact State.finishRead_withMem rd _

theorem State.readVarint64_withMem (rd : Reg) (f : Split64 → Split64) :
    ({ s with mem := m } : State).readVarint64 rd f = { s.readVarint64 rd f with mem := m } := by
  rw [State.readVarint64, State.decByte_withMem h]
  exact State.finishRead_withMem rd _

/-- A fixed read whose result may itself read the bytes again, as that of RF64 does. -/
theorem State.readFixed_withMem (rd : Reg) (n : Nat) {f g : Nat → Split64}
    (hfg : s.pos.toNat + n ≤ s.endAddr.toNat → f = g) :
    ({ s with mem := m } : State).readFixed rd n f = { s.readFixed rd n g with mem := m } := by
  rw [State.readFixed, State.readFixed, State.fixRead_withMem h, State.finishRead_withMem]
  by_cases hn : s.endAddr.toNat < s.pos.toNat + n
  · rw [s.fixRead_past n hn]
    rfl
  · rw [hfg (by omega)]

theorem execNextf_withMem (rd : Reg) :
    ∃ t, execNextf rd s = .next t ∧ execNextf rd { s with mem := m } = .next { t with mem := m } := by
  unfold execNextf
  dsimp only
  rw [State.decByte_withMem h]
  split
  · exact ⟨_, rfl, rfl⟩
  · split <;> exact ⟨_, rfl, rfl⟩

end

/-- Settles O21: a scan, a fixed width and the two words of a 64-bit read are the same for both memories, and how a read
ends does not depend on MEM. -/
theorem readsSeeOnlyTheDecoderWindow : Obligations.ReadsSeeOnlyTheDecoderWindow := by
  rintro i s m (hi | ⟨rd, rfl⟩) h
  · cases i
    case rvu32 rd | rvs32 rd | rvz32 rd => exact ⟨_, rfl, congrArg _ (State.readVarint32_withMem h rd _)⟩
    case rv64 rd | rvz64 rd => exact ⟨_, rfl, congrArg _ (State.readVarint64_withMem h rd _)⟩
    case rfu8 rd | rfs8 rd | rfu16 rd | rfs16 rd | rfu32 rd | rfs32 rd | rflt rd =>
      exact ⟨_, rfl, congrArg _ (State.readFixed_withMem h rd _ fun _ => rfl)⟩
    case rf64 rd | rdbl rd =>
      exact ⟨_, rfl, congrArg _ (State.readFixed_withMem h rd 8 fun hn => by rw [State.twoWords_withMem h hn])⟩
    all_goals cases hi
  · exact execNextf_withMem h rd

end Sys2Proof.Machine
end

section
/-! PROOFS. Shifts and zigzag on halves (40_split64.md R105, R106, R112 to R115) as functions of the whole value. -/

namespace Sys2Proof.Machine

open Sys2Proof.Claims

/-! ## Halves and whole values -/

theorem getLsbD_join (l h : Word) (i : Nat) :
    (join l h).getLsbD i = if i < 32 then l.getLsbD i else h.getLsbD (i - 32) := BitVec.getLsbD_append

theorem getLsbD_lo (v : Split64) (i : Nat) : (lo v).getLsbD i = (decide (i < 32) && v.getLsbD i) := by
  simp [lo]

theorem getLsbD_hi (v : Split64) (i : Nat) : (hi v).getLsbD i = (decide (i < 32) && v.getLsbD (32 + i)) := by
  simp [hi]

/-- The shift on halves of R105 is that of the whole value. -/
theorem shl64_eq (a : Split64) : shl64 a = a <<< 1 := by
  apply BitVec.eq_of_getLsbD_eq
  intro i hi
  simp only [shl64, getLsbD_join, getLsbD_lo, getLsbD_hi, BitVec.getLsbD_or, BitVec.getLsbD_shiftLeft,
    BitVec.getLsbD_setWidth, BitVec.getLsbD_ofBool]
  split
  · simp [*, show i - 1 < 32 by omega]
  · rcases Nat.eq_or_lt_of_le (Nat.le_of_not_lt ‹_›) with rfl | h
    · rfl
    · simp [show 32 + (i - 32 - 1) = i - 1 by omega, show i - 32 < 32 by omega, show i - 32 ≠ 0 by omega,
        show i ≠ 0 by omega, show i - 32 - 1 < 32 by omega, hi]

/-- The shift on halves of R106 is the logical one of the whole value. -/
theorem shr64_eq (a : Split64) : shr64 a = a >>> 1 := by
  apply BitVec.eq_of_getLsbD_eq
  intro i hi
  simp only [shr64, getLsbD_join, getLsbD_lo, getLsbD_hi, BitVec.getLsbD_or, BitVec.getLsbD_shiftLeft,
    BitVec.getLsbD_setWidth, BitVec.getLsbD_ofBool, BitVec.getLsbD_ushiftRight]
  split
  · rcases Nat.eq_or_lt_of_le (Nat.le_of_lt_succ ‹i < 32›) with rfl | h
    · rfl
    · simp [h, show 1 + i < 32 by omega]
  · rw [show 32 + (1 + (i - 32)) = 1 + i by omega]
    rcases Nat.eq_or_lt_of_le (Nat.le_of_lt_succ ‹i < 64›) with rfl | h
    · exact (BitVec.getLsbD_of_ge a 64 (Nat.le_refl _)).symm
    · simp [show 1 + (i - 32) < 32 by omega]

/-! ## Zigzag (R112, R113, R115) -/

@[simp] theorem mask32_false_xor (w : Word) : w ^^^ mask32 false = w := BitVec.xor_zero

@[simp] theorem mask32_true_xor (w : Word) : w ^^^ mask32 true = ~~~w := BitVec.xor_allOnes

/-- The mask of R112 and R113 over both halves. -/
theorem join_xor_mask32 (l h : Word) (b : Bool) :
    join (l ^^^ mask32 b) (h ^^^ mask32 b) = if b then ~~~join l h else join l h := by
  cases b
  · rw [mask32_false_xor, mask32_false_xor]
    rfl
  · rw [mask32_true_xor, mask32_true_xor, join, join, BitVec.not_append]
    rfl

/-- Zigzag is a shift by one, complemented for a negative value. -/
theorem ofInt_zigzag_toInt {w : Nat} (a : BitVec w) :
    BitVec.ofInt w (zigzag a.toInt) = if a.msb then ~~~(a <<< 1) else a <<< 1 := by
  have hshl : BitVec.ofInt w (2 * a.toInt) = a <<< 1 := by
    rw [Int.two_mul, BitVec.ofInt_add, BitVec.ofInt_toInt]
    exact BitVec.eq_of_toNat_eq (by simp [Nat.shiftLeft_eq, Nat.mul_two])
  rw [BitVec.msb_eq_toInt]
  by_cases h : a.toInt < 0
  · have e : zigzag a.toInt = -(2 * a.toInt + 1) := by rw [zigzag, if_neg (by omega)]; omega
    simp only [h, decide_true, if_true]
    rw [e, BitVec.ofInt_neg, BitVec.ofInt_add, hshl, BitVec.neg_add, BitVec.not_eq_neg_add]
    simp
  · simp [h, zigzag, show 0 ≤ a.toInt by omega, hshl]

theorem zze64_eq (a : Split64) : zze64 a = BitVec.ofInt 64 (zigzag a.toInt) := by
  have hm : (hi a).getLsbD 31 = a.msb := getLsbD_hi a 31
  rw [zze64, join_xor_mask32, hm, ofInt_zigzag_toInt, ← shl64_eq, shl64]

/-- As an integer below 2^64, with no reduction. -/
theorem zze64_toNat (a : Split64) : (zze64 a).toNat = (zigzag a.toInt).toNat := by
  have h1 := a.le_toInt
  have h2 := a.toInt_lt
  rw [zze64_eq, BitVec.toNat_ofInt, zigzag]
  split <;> omega

/-- Its inverse is a shift by one, complemented for an odd value. -/
theorem ofInt_unzigzag_toNat {w : Nat} (z : BitVec w) :
    BitVec.ofInt w (unzigzag z.toNat) = if z.getLsbD 0 then ~~~(z >>> 1) else z >>> 1 := by
  have hlsb : z.getLsbD 0 = decide (z.toNat % 2 = 1) := Nat.testBit_zero _
  have hshr : BitVec.ofNat w (z.toNat / 2) = z >>> 1 := by
    rw [← Nat.shiftRight_one, ← BitVec.toNat_ushiftRight, BitVec.ofNat_toNat, BitVec.setWidth_eq]
  rw [hlsb]
  by_cases h : z.toNat % 2 = 1
  · have e : unzigzag z.toNat = -((z.toNat / 2 : Nat) + 1) := by rw [unzigzag, if_neg (by omega)]; omega
    simp only [h, decide_true, if_true]
    rw [e, BitVec.ofInt_neg, BitVec.ofInt_add, BitVec.ofInt_natCast, hshr, BitVec.not_eq_neg_add, BitVec.neg_add]
    rfl
  · rw [unzigzag, if_pos (by omega), BitVec.ofInt_natCast, hshr]
    simp [h]

theorem unzigzag_zigzag (n : Int) : unzigzag (zigzag n).toNat = n := by
  unfold unzigzag zigzag
  split <;> split <;> omega

theorem zzd64_eq (z : Split64) : zzd64 z = BitVec.ofInt 64 (unzigzag z.toNat) := by
  have hm : (lo z).getLsbD 0 = z.getLsbD 0 := getLsbD_lo z 0
  rw [zzd64, join_xor_mask32, hm, ofInt_unzigzag_toNat, ← shr64_eq, shr64]

theorem zzd32_eq (z : Word) : zzd32 z = BitVec.ofInt 32 (unzigzag z.toNat) := by
  rw [ofInt_unzigzag_toNat, zzd32]
  cases z.getLsbD 0
  · exact mask32_false_xor _
  · exact mask32_true_xor _

end Sys2Proof.Machine
end

section
/-! PROOFS. The encoder writes (20_memory.md R53, R58, 41_varint.md R131): the bytes each emits, written from the rules,
the equation of each command, and the frame of MEM (R51, R57). -/

namespace Sys2Proof.Machine

open Sys2Proof.Claims

variable (s : State)

/-! ## Little-endian bytes -/

/-- Byte k of a little-endian store is digit k to the base 256 (R58). -/
theorem leBytes_eq_map (n v : Nat) : leBytes n v = (List.range n).map fun k => BitVec.ofNat 8 (v / 256 ^ k) := by
  induction n generalizing v with
  | zero => rfl
  | succ n ih => simp [leBytes, ih, List.range_succ_eq_map, Nat.pow_succ', Nat.div_div_eq_div_mul]

theorem leBytes_append (m n v : Nat) : leBytes (m + n) v = leBytes m v ++ leBytes n (v / 256 ^ m) := by
  simp [leBytes_eq_map, List.range_add, Nat.pow_add, Nat.div_div_eq_div_mul]

theorem byteOf_eq_ofNat (v : Split64) (k : Nat) : byteOf v k = BitVec.ofNat 8 (v.toNat / 256 ^ k) := by
  apply BitVec.eq_of_toNat_eq
  simp [byteOf, Nat.shiftRight_eq_div_pow, Nat.pow_mul]

@[simp] theorem lowBytes_length (v : Split64) (n : Nat) : (lowBytes v n).length = n := by
  simp [lowBytes]

/-- The bytes depend on the value mod 2^(8n) only. -/
theorem leBytes_eq_lowBytes {n v : Nat} {x : Split64} (h : v % 256 ^ n = x.toNat % 256 ^ n) :
    leBytes n v = lowBytes x n := by
  rw [leBytes_eq_map, lowBytes]
  refine List.map_congr_left fun k hk => ?_
  have hd : 256 ^ (k + 1) ∣ 256 ^ n := Nat.pow_dvd_pow 256 (List.mem_range.1 hk)
  have digit (w : Nat) : w / 256 ^ k % 256 = w % 256 ^ n % 256 ^ (k + 1) / 256 ^ k := by
    rw [Nat.mod_mod_of_dvd w hd, Nat.pow_succ, Nat.mod_mul_right_div_self]
  rw [byteOf_eq_ofNat]
  apply BitVec.eq_of_toNat_eq
  simp only [BitVec.toNat_ofNat, Nat.reducePow]
  rw [digit v, digit x.toNat, h]

theorem leBytes_toNat (x : Split64) (n : Nat) : leBytes n x.toNat = lowBytes x n := leBytes_eq_lowBytes rfl

/-- A signed value reduced mod 2^k has the bits of its pattern. -/
theorem toNat_toInt_emod (x : Split64) {k : Nat} (hk : k ≤ 64) : (x.toInt % 2 ^ k).toNat = x.toNat % 2 ^ k := by
  have hd : ((2 ^ k : Nat) : Int) ∣ ((2 ^ 64 : Nat) : Int) := Int.natCast_dvd_natCast.2 (Nat.pow_dvd_pow 2 hk)
  have h : x.toInt % ((2 ^ k : Nat) : Int) = (x.toNat : Int) % ((2 ^ k : Nat) : Int) := by
    rw [← Int.emod_emod_of_dvd _ hd, BitVec.toInt_eq_toNat_bmod, Int.bmod_emod, Int.emod_emod_of_dvd _ hd]
  rw [Nat.cast_pow] at h
  push_cast at h
  rw [h]
  exact Int.toNat_emod (by omega) (by positivity)

theorem leBytes_signed (x : Split64) {n : Nat} (hn : 8 * n ≤ 64) :
    leBytes n (x.toInt % 2 ^ (8 * n)).toNat = lowBytes x n := by
  rw [toNat_toInt_emod x hn]
  exact leBytes_eq_lowBytes (by rw [show 256 ^ n = 2 ^ (8 * n) from (Nat.pow_mul 2 8 n).symm, Nat.mod_mod])

/-- Two little-endian words, the low one first, are one little-endian value (R174). -/
theorem twoWordBytes_eq (x : Split64) : twoWordBytes x = lowBytes x 8 := by
  rw [← leBytes_toNat, leBytes_append 4 4, show 256 ^ 4 = 2 ^ 32 from rfl, twoWordBytes, hi_toNat, lo_toNat,
    leBytes_toNat, leBytes_eq_lowBytes (x := x) (by omega)]

/-- The bytes of a word are those of its zero extension. -/
theorem leBytes_word (w : Word) : leBytes 4 w.toNat = lowBytes (w.setWidth 64) 4 :=
  leBytes_eq_lowBytes (by rw [BitVec.toNat_setWidth_of_le (by decide)])

/-! ## Encoder writes as the rules describe them -/

theorem State.emitChecked_eq_writeEnds (w0 : Word) {ok : Bool} {p : Prop} [Decidable p] (h : ok = true ↔ p)
    (c : FaultCode) (bs : List Byte) : s.emitChecked w0 ok c bs = writeEnds s w0 p c.code bs := by
  unfold writeEnds
  by_cases hp : p
  · rw [if_neg (not_not.2 hp), h.2 hp]
    rfl
  · rw [if_pos hp, eq_false_of_ne_true (mt h.1 hp)]
    rfl

theorem State.emit_eq_writeEnds (w0 : Word) (bs : List Byte) : s.emit w0 bs = writeEnds s w0 True 0#8 bs := by
  unfold writeEnds
  rw [if_neg (not_not.2 trivial)]
  rfl

/-- Everything such a write can do. -/
theorem writeEnds_cases (w0 : Word) (p : Prop) [Decidable p] (c : BitVec 8) (bs : List Byte) :
    (∃ c', writeEnds s w0 p c bs = contractFault c' w0 s) ∨
      (p ∧ s.wpos.toNat + bs.length ≤ s.memBytes ∧ writeEnds s w0 p c bs = written s bs) := by
  unfold writeEnds
  split
  · exact .inl ⟨c, rfl⟩
  · split
    · exact .inl ⟨5#8, rfl⟩
    · exact .inr ⟨not_not.1 ‹_›, by omega, rfl⟩

theorem fitsUnsigned_iff (n v : Nat) : fitsUnsigned n v = true ↔ v < 2 ^ n := decide_eq_true_iff

theorem fitsSigned_iff (n : Nat) (v : Int) :
    fitsSigned n v = true ↔ -(2 ^ (n - 1) : Int) ≤ v ∧ v < 2 ^ (n - 1) := decide_eq_true_iff

/-! ## Each write: its check, the code if the check fails, its bytes (R140 to R144, R168 to R174, R189, R190, R224) -/

variable (r : Reg)

theorem exec_wvu32_eq : exec (.wvu32 r) s =
    .next (writeEnds s (Instr.wvu32 r).word0 (s.x[r].toNat < 2 ^ 32) 2#8 (varintBytes s.x[r].toNat)) := by
  simp only [exec, execWvu32, u_eq_toNat]
  exact congrArg _ (s.emitChecked_eq_writeEnds _ (fitsUnsigned_iff 32 _) .range _)

theorem exec_wvs32_eq : exec (.wvs32 r) s =
    .next (writeEnds s (Instr.wvs32 r).word0 (-2 ^ 31 ≤ s.x[r].toInt ∧ s.x[r].toInt < 2 ^ 31) 2#8
      (varintBytes s.x[r].toNat)) := by
  simp only [exec, execWvs32, sgn_eq_toInt]
  rw [toNat_toInt_emod _ (Nat.le_refl 64), Nat.mod_eq_of_lt (s.reg r).isLt]
  exact congrArg _ (s.emitChecked_eq_writeEnds _ (fitsSigned_iff 32 _) .range _)

theorem exec_wvz32_eq : exec (.wvz32 r) s =
    .next (writeEnds s (Instr.wvz32 r).word0 (-2 ^ 31 ≤ s.x[r].toInt ∧ s.x[r].toInt < 2 ^ 31) 2#8
      (varintBytes (zigzag s.x[r].toInt).toNat)) := by
  simp only [exec, execWvz32, sgn_eq_toInt]
  exact congrArg _ (s.emitChecked_eq_writeEnds _ (fitsSigned_iff 32 _) .range _)

theorem exec_wv64_eq : exec (.wv64 r) s =
    .next (writeEnds s (Instr.wv64 r).word0 True 0#8 (varintBytes s.x[r].toNat)) := by
  simp only [exec, execWv64, u_eq_toNat]
  exact congrArg _ (s.emit_eq_writeEnds _ _)

theorem exec_wvz64_eq : exec (.wvz64 r) s =
    .next (writeEnds s (Instr.wvz64 r).word0 True 0#8 (varintBytes (zigzag s.x[r].toInt).toNat)) := by
  simp only [exec, execWvz64, u_eq_toNat, zze64_toNat]
  exact congrArg _ (s.emit_eq_writeEnds _ _)

theorem exec_wfu8_eq : exec (.wfu8 r) s =
    .next (writeEnds s (Instr.wfu8 r).word0 (s.x[r].toNat < 256) 2#8 (lowBytes s.x[r] 1)) := by
  simp only [exec, execWfu8, u_eq_toNat, leBytes_toNat]
  exact congrArg _ (s.emitChecked_eq_writeEnds _ (fitsUnsigned_iff 8 _) .range _)

theorem exec_wfs8_eq : exec (.wfs8 r) s =
    .next (writeEnds s (Instr.wfs8 r).word0 (-128 ≤ s.x[r].toInt ∧ s.x[r].toInt < 128) 2#8 (lowBytes s.x[r] 1)) := by
  simp only [exec, execWfs8, sgn_eq_toInt, leBytes_signed _ (n := 1) (by decide)]
  exact congrArg _ (s.emitChecked_eq_writeEnds _ (fitsSigned_iff 8 _) .range _)

theorem exec_wfu16_eq : exec (.wfu16 r) s =
    .next (writeEnds s (Instr.wfu16 r).word0 (s.x[r].toNat < 65536) 2#8 (lowBytes s.x[r] 2)) := by
  simp only [exec, execWfu16, u_eq_toNat, leBytes_toNat]
  exact congrArg _ (s.emitChecked_eq_writeEnds _ (fitsUnsigned_iff 16 _) .range _)

theorem exec_wfs16_eq : exec (.wfs16 r) s =
    .next (writeEnds s (Instr.wfs16 r).word0 (-32768 ≤ s.x[r].toInt ∧ s.x[r].toInt < 32768) 2#8
      (lowBytes s.x[r] 2)) := by
  simp only [exec, execWfs16, sgn_eq_toInt, leBytes_signed _ (n := 2) (by decide)]
  exact congrArg _ (s.emitChecked_eq_writeEnds _ (fitsSigned_iff 16 _) .range _)

theorem exec_wfu32_eq : exec (.wfu32 r) s =
    .next (writeEnds s (Instr.wfu32 r).word0 (s.x[r].toNat < 2 ^ 32) 2#8 (lowBytes s.x[r] 4)) := by
  simp only [exec, execWfu32, u_eq_toNat, leBytes_toNat]
  exact congrArg _ (s.emitChecked_eq_writeEnds _ (fitsUnsigned_iff 32 _) .range _)

theorem exec_wfs32_eq : exec (.wfs32 r) s =
    .next (writeEnds s (Instr.wfs32 r).word0 (-2 ^ 31 ≤ s.x[r].toInt ∧ s.x[r].toInt < 2 ^ 31) 2#8
      (lowBytes s.x[r] 4)) := by
  simp only [exec, execWfs32, sgn_eq_toInt, leBytes_signed _ (n := 4) (by decide)]
  exact congrArg _ (s.emitChecked_eq_writeEnds _ (fitsSigned_iff 32 _) .range _)

theorem exec_wf64_eq : exec (.wf64 r) s =
    .next (writeEnds s (Instr.wf64 r).word0 True 0#8 (lowBytes s.x[r] 8)) := by
  simp only [exec, execWf64, twoWordBytes_eq]
  exact congrArg _ (s.emit_eq_writeEnds _ _)

theorem exec_wflt_eq : exec (.wflt r) s =
    .next (writeEnds s (Instr.wflt r).word0 True 0#8 (lowBytes ((narrow s.x[r]).setWidth 64) 4)) := by
  simp only [exec, execWflt, leBytes_word]
  exact congrArg _ (s.emit_eq_writeEnds _ _)

theorem exec_wdbl_eq : exec (.wdbl r) s =
    .next (writeEnds s (Instr.wdbl r).word0 True 0#8 (lowBytes (canonical64 s.x[r]) 8)) := by
  simp only [exec, execWdbl, twoWordBytes_eq]
  exact congrArg _ (s.emit_eq_writeEnds _ _)

theorem exec_wtag_eq {wt : BitVec 8} (hw : wt.toNat ≤ 5) : exec (.wtag r wt) s =
    .next (writeEnds s (Instr.wtag r wt).word0 (1 ≤ s.x[r].toNat ∧ s.x[r].toNat ≤ 2 ^ 29 - 1) 3#8
      (varintBytes (s.x[r].toNat * 8 + wt.toNat))) := by
  simp only [exec, execWtag, u_eq_toNat, wtLegal, hw, decide_true, if_true]
  exact congrArg _ (s.emitChecked_eq_writeEnds _ decide_eq_true_iff .tagInvalid _)

/-- A wire type above 5 (R75). -/
theorem exec_wtag_illegal {wt : BitVec 8} (hw : ¬wt.toNat ≤ 5) :
    exec (.wtag r wt) s = .next (contractFault 1#8 (Instr.wtag r wt).word0 s) := by
  simp only [exec, execWtag, wtLegal, hw, decide_false]
  rfl

/-! ## The frame of MEM -/

variable {s}

/-- A write of these bytes faults, or they fit and are written. -/
theorem exec_cases_of_writeEnds {i : Instr} {p : Prop} [Decidable p] {c : BitVec 8} {bs : List Byte}
    (h : exec i s = .next (writeEnds s i.word0 p c bs)) :
    (∃ c, exec i s = .next (contractFault c i.word0 s)) ∨
      (s.wpos.toNat + bs.length ≤ s.memBytes ∧ exec i s = .next (written s bs)) := by
  obtain ⟨c', e⟩ | ⟨-, hfit, e⟩ := writeEnds_cases s i.word0 p c bs
  · exact .inl ⟨c', h.trans (congrArg _ e)⟩
  · exact .inr ⟨hfit, h.trans (congrArg _ e)⟩

/-- Everything an encoder write can do. -/
theorem exec_write_cases {i : Instr} (hi : isWrite i = true) :
    (∃ c, exec i s = .next (contractFault c i.word0 s)) ∨
      (s.wpos.toNat + (emitted s i).length ≤ s.memBytes ∧ exec i s = .next (written s (emitted s i))) := by
  cases i
  case wvu32 r => exact exec_cases_of_writeEnds (exec_wvu32_eq s r)
  case wvs32 r => exact exec_cases_of_writeEnds (exec_wvs32_eq s r)
  case wvz32 r => exact exec_cases_of_writeEnds (exec_wvz32_eq s r)
  case wv64 r => exact exec_cases_of_writeEnds (exec_wv64_eq s r)
  case wvz64 r => exact exec_cases_of_writeEnds (exec_wvz64_eq s r)
  case wfu8 r => exact exec_cases_of_writeEnds (exec_wfu8_eq s r)
  case wfs8 r => exact exec_cases_of_writeEnds (exec_wfs8_eq s r)
  case wfu16 r => exact exec_cases_of_writeEnds (exec_wfu16_eq s r)
  case wfs16 r => exact exec_cases_of_writeEnds (exec_wfs16_eq s r)
  case wfu32 r => exact exec_cases_of_writeEnds (exec_wfu32_eq s r)
  case wfs32 r => exact exec_cases_of_writeEnds (exec_wfs32_eq s r)
  case wf64 r => exact exec_cases_of_writeEnds (exec_wf64_eq s r)
  case wflt r => exact exec_cases_of_writeEnds (exec_wflt_eq s r)
  case wdbl r => exact exec_cases_of_writeEnds (exec_wdbl_eq s r)
  case wtag r wt =>
    by_cases hw : wt.toNat ≤ 5
    · exact exec_cases_of_writeEnds (exec_wtag_eq s r hw)
    · exact .inl ⟨1#8, exec_wtag_illegal s r hw⟩
  all_goals cases hi

/-- How an encoder write ends. -/
theorem write_ends_of_next {i : Instr} {t : State} (hi : isWrite i = true) (h : exec i s = .next t) :
    (∃ c, t = contractFault c i.word0 s) ∨
      (s.wpos.toNat + (emitted s i).length ≤ s.memBytes ∧ t = written s (emitted s i)) := by
  obtain ⟨c, e⟩ | ⟨hfit, e⟩ := exec_write_cases (s := s) hi
  · exact .inl ⟨c, Host.Outcome.next.inj (h.symm.trans e)⟩
  · exact .inr ⟨hfit, Host.Outcome.next.inj (h.symm.trans e)⟩

/-- Every command but an encoder write leaves MEM. -/
theorem Ends.mem_eq {i : Instr} {t : State} (h : Ends i s t) (hw : isWrite i = false) : t.mem = s.mem := by
  cases h with
  | fault | result | divZero | div | pass | block | moved | read | error | noField | badField | field => rfl
  | cursor _ _ _ _ ht =>
    obtain ⟨_, _, _, _, rfl⟩ := State.writeCursor_only_cursors ht
    rfl
  | wrote _ hi => simp [hi] at hw

/-- Settles O26: MEM is written by the encoder writes alone, and these write `emitted` at WPOS or fault. -/
theorem memoryChangesOnlyWhereAnEncoderWrites : Obligations.MemoryChangesOnlyWhereAnEncoderWrites := by
  intro i s t hwf hf h
  refine ⟨fun hw a => congrArg (·.read a) ((exec_ends_of_next s h).mem_eq hw), fun hw ht => ?_, fun hw ht => ?_⟩
  · obtain ⟨c, rfl⟩ | ⟨-, rfl⟩ := write_ends_of_next hw h
    · exact fun _ => rfl
    · exact absurd (ht.symm.trans hf) (by decide)
  · obtain ⟨c, rfl⟩ | ⟨hfit, rfl⟩ := write_ends_of_next hw h
    · cases ht
    refine ⟨hfit, s.wpos_add_toNat _ hfit, fun k b hk => ?_, fun a ha => ?_⟩
    · obtain ⟨hlt, rfl⟩ := List.getElem?_eq_some_iff.1 hk
      exact Memory.read_writeBytes_inside _ s.mem _ k hwf hlt
    · exact Memory.read_writeBytes_outside _ s.mem _ a ha

end Sys2Proof.Machine
end

section
/-! PROOFS. What the two scans (41_varint.md R133, R134) read from the bytes of a varint (R132). -/

namespace Sys2Proof.Machine

open Sys2Proof.Claims

/-- A mask of the k low bits is the value mod 2^k. -/
theorem toNat_and_mask (b : Byte) (k : Nat) (hk : k ≤ 8) :
    (b &&& BitVec.ofNat 8 (2 ^ k - 1)).toNat = b.toNat % 2 ^ k := by
  have h : 2 ^ k ≤ 2 ^ 8 := Nat.pow_le_pow_right (by decide) hk
  rw [BitVec.toNat_and, BitVec.toNat_ofNat, Nat.mod_eq_of_lt (by omega), Nat.and_two_pow_sub_one_eq_mod]

section
variable {get : Nat → Except DecodeError Byte} {i : Nat} {b : Byte} {bs : List Byte}

/-! ## The bytes of a varint, one digit at a time (R132) -/

/-- Byte i and after, as `get` serves them, are bs. -/
def Serves (get : Nat → Except DecodeError Byte) (i : Nat) (bs : List Byte) : Prop :=
  ∀ j (h : j < bs.length), get (i + j) = .ok bs[j]

theorem serves_cons : Serves get i (b :: bs) ↔ get i = .ok b ∧ Serves get (i + 1) bs := by
  refine ⟨fun h => ⟨h 0 (by simp), fun j hj => ?_⟩, fun ⟨h0, h⟩ j hj => ?_⟩
  · rw [Nat.add_right_comm]
    exact h (j + 1) (by simpa using hj)
  · cases j with
    | zero => exact h0
    | succ j =>
      rw [← Nat.add_assoc, Nat.add_right_comm]
      exact h j (by simpa using hj)

/-- The last digit stands alone. -/
theorem varintGroups_last {k v : Nat} (hv : v < 128) : varintGroups (k + 1) v = [BitVec.ofNat 8 v] := by
  rw [varintGroups, if_pos (by omega), Nat.mod_eq_of_lt hv]

/-- A digit with more behind it has the continuation bit. -/
theorem varintGroups_more {k v : Nat} (hv : 128 ≤ v) :
    varintGroups (k + 1) v = (BitVec.ofNat 8 (v % 128) ||| 0x80#8) :: varintGroups k (v / 128) := by
  rw [varintGroups, if_neg (by omega)]

theorem continuation_ge (b : Byte) : 0x80 ≤ (b ||| 0x80#8).toNat := by
  rw [BitVec.toNat_or]
  exact Nat.right_le_or

/-- The continuation bit is no part of the digit. -/
theorem continuation_and {m : Byte} (hm : 0x80#8 &&& m = 0#8) (b : Byte) : (b ||| 0x80#8) &&& m = b &&& m := by
  rw [BitVec.and_comm, BitVec.and_or_distrib_left, BitVec.and_comm m 0x80#8, hm, BitVec.or_zero, BitVec.and_comm]

/-- The digit of the byte that a digit below 128 makes. -/
theorem digit_toNat {v : Nat} (hv : v < 128) : (BitVec.ofNat 8 v &&& 0x7F#8).toNat = v := by
  rw [show 0x7F#8 = BitVec.ofNat 8 (2 ^ 7 - 1) from rfl, toNat_and_mask _ 7 (by decide), BitVec.toNat_ofNat]
  omega

theorem toNat_ofNat_digit {v : Nat} (hv : v < 128) : (BitVec.ofNat 8 v).toNat = v := by
  rw [BitVec.toNat_ofNat]
  omega

/-- With the digit at i the last, w has i + 1 digits. -/
theorem lt_pow_of_lastDigit {w v : Nat} (hv : v = w / 128 ^ i) (h128 : v < 128) : w < 128 ^ (i + 1) := by
  rw [Nat.pow_succ']
  exact (Nat.div_lt_iff_lt_mul (by positivity)).1 (hv ▸ h128)

/-- What is left of w behind the digit at i. -/
theorem div_digit {w v : Nat} (hv : v = w / 128 ^ i) : v / 128 = w / 128 ^ (i + 1) := by
  rw [hv, Nat.div_div_eq_div_mul, Nat.pow_succ]

/-- A digit shifted above what has been read so far is added to it. -/
theorem or_shiftLeft_eq_ofNat {n k : Nat} {x : BitVec n} (hx : x.toNat < 2 ^ k) (hn : 8 ≤ n) (d : Byte) :
    x ||| d.setWidth n <<< k = BitVec.ofNat n (x.toNat + d.toNat * 2 ^ k) := by
  have hd : (d.setWidth n).toNat = d.toNat := BitVec.toNat_setWidth_of_le hn
  rw [Nat.add_comm, ← Nat.shiftLeft_eq, Nat.shiftLeft_add_eq_or_of_lt hx, BitVec.ofNat_or, BitVec.ofNat_toNat,
    BitVec.setWidth_eq, BitVec.or_comm]
  congr 1
  exact BitVec.eq_of_toNat_eq (by rw [BitVec.toNat_shiftLeft, hd, BitVec.toNat_ofNat])

/-- One more digit of w. -/
theorem or_digit {n w : Nat} (hn : 8 ≤ n) {d : Byte} (hd : d.toNat = w / 128 ^ i % 128) :
    BitVec.ofNat n (w % 128 ^ i) ||| d.setWidth n <<< (7 * i) = BitVec.ofNat n (w % 128 ^ (i + 1)) := by
  have hx : (BitVec.ofNat n (w % 128 ^ i)).toNat < 2 ^ (7 * i) := by
    rw [Nat.pow_mul, BitVec.toNat_ofNat]
    exact (Nat.mod_le _ _).trans_lt (Nat.mod_lt _ (by positivity))
  rw [or_shiftLeft_eq_ofNat hx hn, hd, show 2 ^ (7 * i) = 128 ^ i from Nat.pow_mul 2 7 i, Nat.pow_succ 128, Nat.mod_mul,
    Nat.mul_comm (w / 128 ^ i % 128)]
  apply BitVec.eq_of_toNat_eq
  simp only [BitVec.toNat_ofNat, Nat.mod_add_mod]

end

/-! ## The 64-bit scan of a varint (R134) -/

theorem join_or (l l' h h' : Word) : join (l ||| l') (h ||| h') = join l h ||| join l' h' :=
  (BitVec.or_append (w := 32) (v := 32)).symm

/-- The halves of a digit alone are those of the digit shifted to its place; one case for each of the ten places. -/
theorem join_scanDigit_zero {i : Nat} (hi : i ≤ 9) {d : Byte} (hd : d.toNat < 128) :
    join (scanDigit i d 0#32 0#32).1 (scanDigit i d 0#32 0#32).2 = d.setWidth 64 <<< (7 * i) := by
  have h15 : (d &&& 0x0F#8).toNat = d.toNat % 16 := toNat_and_mask d 4 (by decide)
  have h1 : (d &&& 0x01#8).toNat = d.toNat % 2 := toNat_and_mask d 1 (by decide)
  apply BitVec.eq_of_toNat_eq
  rw [join_toNat]
  interval_cases i <;>
    simp only [scanDigit, BitVec.zero_or, BitVec.toNat_shiftLeft, BitVec.toNat_setWidth, BitVec.toNat_ushiftRight,
      BitVec.toNat_ofNat, h15, h1, Nat.shiftLeft_eq, Nat.shiftRight_eq_div_pow, Nat.reduceLeDiff, Nat.reduceEqDiff,
      Nat.reduceMul, Nat.reduceSub, Nat.reducePow, Nat.reduceMod, if_true, if_false] <;>
    omega

/-- A digit is added to halves by an `or` with its own halves. -/
theorem scanDigit_eq_or (i : Nat) (d : Byte) (l h : Word) :
    scanDigit i d l h = (l ||| (scanDigit i d 0#32 0#32).1, h ||| (scanDigit i d 0#32 0#32).2) := by
  unfold scanDigit
  split_ifs <;> simp

/-- What a digit adds to the halves is what it adds to the value. -/
theorem join_scanDigit {i : Nat} (hi : i ≤ 9) {d : Byte} (hd : d.toNat < 128) (l h : Word) :
    join (scanDigit i d l h).1 (scanDigit i d l h).2 = join l h ||| d.setWidth 64 <<< (7 * i) := by
  rw [scanDigit_eq_or, join_or, join_scanDigit_zero hi hd]

section
variable {get : Nat → Except DecodeError Byte} {i k : Nat} {b : Byte}

theorem scanWide_last {l h : Word} (hg : get i = .ok b) (hb : b.toNat < 0x80) :
    scanWide get (k + 1) i l h =
      .ok (join (scanDigit i (b &&& 0x7F#8) l h).1 (scanDigit i (b &&& 0x7F#8) l h).2, i + 1) := by
  simp only [scanWide, hg, if_pos hb]

theorem scanWide_more {l h : Word} (hg : get i = .ok b) (hb : 0x80 ≤ b.toNat) :
    scanWide get (k + 1) i l h =
      scanWide get k (i + 1) (scanDigit i (b &&& 0x7F#8) l h).1 (scanDigit i (b &&& 0x7F#8) l h).2 := by
  simp only [scanWide, hg, if_neg (Nat.not_lt.2 hb)]

/-- The halves after the digit of w at i. -/
theorem join_scanDigit_digit {w : Nat} (hi : i ≤ 9) {l h : Word} (hlh : join l h = BitVec.ofNat 64 (w % 128 ^ i))
    {d : Byte} (hd : d.toNat = w / 128 ^ i % 128) :
    join (scanDigit i d l h).1 (scanDigit i d l h).2 = BitVec.ofNat 64 (w % 128 ^ (i + 1)) := by
  rw [join_scanDigit hi (by omega), hlh, or_digit (by decide) hd]

/-- The last digit of w, those below already in the halves. -/
theorem scanWide_lastDigit {w v : Nat} (hv : v = w / 128 ^ i) (h128 : v < 128) (hi : i ≤ 9) {l h : Word}
    (hlh : join l h = BitVec.ofNat 64 (w % 128 ^ i)) (hg : get i = .ok (BitVec.ofNat 8 v)) :
    scanWide get (k + 1) i l h = .ok (BitVec.ofNat 64 w, i + 1) := by
  rw [scanWide_last hg (by rwa [toNat_ofNat_digit h128]),
    join_scanDigit_digit hi hlh (by rw [digit_toNat h128, ← hv, Nat.mod_eq_of_lt h128]),
    Nat.mod_eq_of_lt (lt_pow_of_lastDigit hv h128)]

/-- The digits of w from i on, those below already in the halves. -/
theorem scanWide_varintGroups {w : Nat} (hw : w < 2 ^ 64) {v : Nat} (hv : v = w / 128 ^ i) (hk : i + k = 9)
    (hs : Serves get i (varintGroups (k + 1) v)) {l h : Word} (hlh : join l h = BitVec.ofNat 64 (w % 128 ^ i)) :
    scanWide get (k + 1) i l h = .ok (BitVec.ofNat 64 w, i + (varintGroups (k + 1) v).length) := by
  induction k generalizing i v l h with
  | zero =>
    obtain rfl : i = 9 := by omega
    have h128 : v < 128 := by omega
    rw [varintGroups_last h128, serves_cons] at hs
    rw [varintGroups_last h128]
    exact scanWide_lastDigit hv h128 (by omega) hlh hs.1
  | succ k ih =>
    rcases Nat.lt_or_ge v 128 with h128 | h128
    · rw [varintGroups_last h128, serves_cons] at hs
      rw [varintGroups_last h128]
      exact scanWide_lastDigit hv h128 (by omega) hlh hs.1
    · rw [varintGroups_more h128, serves_cons] at hs
      rw [varintGroups_more h128, scanWide_more hs.1 (continuation_ge _), continuation_and (by decide),
        ih (div_digit hv) (by omega) hs.2 (join_scanDigit_digit (by omega) hlh (by rw [digit_toNat (by omega), hv])),
        List.length_cons, Nat.add_assoc, Nat.add_comm 1]

/-- A varint of any 64-bit value is scanned to that value, and all its bytes are taken. -/
theorem varint64Scan_varintBytes {w : Nat} (hw : w < 2 ^ 64) (hs : Serves get 0 (varintBytes w)) :
    varint64Scan get = .ok (BitVec.ofNat 64 w, (varintBytes w).length) := by
  have h := scanWide_varintGroups (k := 9) hw (by simp) rfl hs (l := 0#32) (h := 0#32) (by simp [Nat.mod_one]; rfl)
  rwa [Nat.zero_add] at h

/-! ## The 32-bit scan of a varint (R133) -/

theorem scanHead_last {x : Word} (hg : get i = .ok b) (hb : b.toNat < 0x80) :
    scanHead get (k + 1) i x = .ok (x ||| (b &&& 0x7F#8).setWidth 32 <<< (7 * i), i + 1) := by
  simp only [scanHead, hg, if_pos hb]

theorem scanHead_more {x : Word} (hg : get i = .ok b) (hb : 0x80 ≤ b.toNat) :
    scanHead get (k + 1) i x = scanHead get k (i + 1) (x ||| (b &&& 0x7F#8).setWidth 32 <<< (7 * i)) := by
  simp only [scanHead, hg, if_neg (Nat.not_lt.2 hb)]

/-- The digits of w from i on, those below already read, if the scan of the fifth byte and after reads them. -/
theorem scanHead_varintGroups {w v : Nat} (hv : v = w / 128 ^ i) (hk : i + k = 4)
    (hfifth : Serves get 4 (varintGroups 6 (w / 128 ^ 4)) → scanFifth get (BitVec.ofNat 32 (w % 128 ^ 4)) =
      .ok (BitVec.ofNat 32 w, 4 + (varintGroups 6 (w / 128 ^ 4)).length))
    (hs : Serves get i (varintGroups (k + 6) v)) :
    scanHead get k i (BitVec.ofNat 32 (w % 128 ^ i)) =
      .ok (BitVec.ofNat 32 w, i + (varintGroups (k + 6) v).length) := by
  induction k generalizing i v with
  | zero =>
    obtain rfl : i = 4 := by omega
    exact hv ▸ hfifth (hv ▸ hs)
  | succ k ih =>
    rw [Nat.add_right_comm] at hs ⊢
    rcases Nat.lt_or_ge v 128 with h128 | h128
    · rw [varintGroups_last h128, serves_cons] at hs
      rw [varintGroups_last h128, scanHead_last hs.1 (by rwa [toNat_ofNat_digit h128]),
        or_digit (by decide) (by rw [digit_toNat h128, ← hv, Nat.mod_eq_of_lt h128]),
        Nat.mod_eq_of_lt (lt_pow_of_lastDigit hv h128)]
      rfl
    · rw [varintGroups_more h128, serves_cons] at hs
      rw [varintGroups_more h128, scanHead_more hs.1 (continuation_ge _), continuation_and (by decide),
        or_digit (by decide) (by rw [digit_toNat (by omega), hv]), ih (div_digit hv) (by omega) hs.2,
        List.length_cons, Nat.add_assoc, Nat.add_comm 1]

/-- The fifth byte of a value below 2^32 is its last. -/
theorem scanFifth_short {w : Nat} (hw : w < 2 ^ 32) (hs : Serves get 4 (varintGroups 6 (w / 128 ^ 4))) :
    scanFifth get (BitVec.ofNat 32 (w % 128 ^ 4)) =
      .ok (BitVec.ofNat 32 w, 4 + (varintGroups 6 (w / 128 ^ 4)).length) := by
  have h16 : w / 128 ^ 4 < 16 := by omega
  rw [varintGroups_last (by omega), serves_cons] at hs
  rw [varintGroups_last (by omega)]
  have hb := toNat_ofNat_digit (v := w / 128 ^ 4) (by omega)
  have hd : (BitVec.ofNat 8 (w / 128 ^ 4) &&& 0x0F#8).toNat = w / 128 ^ 4 % 128 := by
    rw [show 0x0F#8 = BitVec.ofNat 8 (2 ^ 4 - 1) from rfl, toNat_and_mask _ 4 (by decide), hb]
    omega
  have h0 : BitVec.ofNat 8 (w / 128 ^ 4) &&& 0xF0#8 = 0x00#8 := by
    generalize w / 128 ^ 4 = v at h16
    interval_cases v <;> rfl
  simp only [scanFifth, hs.1, hb, h0, if_pos (show w / 128 ^ 4 < 0x80 by omega), if_true]
  rw [or_digit (i := 4) (by decide) hd, Nat.mod_eq_of_lt (by omega)]
  rfl

/-- The last six bytes of a negative 32-bit value, sign-extended to 64 bits (D34). -/
theorem varintGroups_signed {e : Nat} (he : e < 8) :
    varintGroups 6 (2 ^ 36 - 8 + e) = BitVec.ofNat 8 (0xF8 + e) :: [0xFF#8, 0xFF#8, 0xFF#8, 0xFF#8, 0x01#8] := by
  interval_cases e <;> rfl

/-- The fifth byte of a negative 32-bit value begins the sign-extension form. -/
theorem scanFifth_signed {w : Nat} (hlo : 2 ^ 64 - 2 ^ 31 ≤ w) (hw : w < 2 ^ 64)
    (hs : Serves get 4 (varintGroups 6 (w / 128 ^ 4))) :
    scanFifth get (BitVec.ofNat 32 (w % 128 ^ 4)) =
      .ok (BitVec.ofNat 32 w, 4 + (varintGroups 6 (w / 128 ^ 4)).length) := by
  obtain ⟨e, he, hv⟩ : ∃ e, e < 8 ∧ w / 128 ^ 4 = 2 ^ 36 - 8 + e := ⟨w / 128 ^ 4 - (2 ^ 36 - 8), by omega, by omega⟩
  have hb : 0x80 ≤ (BitVec.ofNat 8 (0xF8 + e)).toNat := by
    rw [BitVec.toNat_ofNat]
    omega
  have h0 : BitVec.ofNat 8 (0xF8 + e) &&& 0xF0#8 = 0xF0#8 := by interval_cases e <;> rfl
  have hd : (BitVec.ofNat 8 (0xF8 + e) &&& 0x0F#8).toNat = 8 + e := by interval_cases e <;> rfl
  have hx : (BitVec.ofNat 32 (w % 128 ^ 4)).toNat = w % 2 ^ 28 := by
    rw [BitVec.toNat_ofNat]
    omega
  rw [hv, varintGroups_signed he] at hs ⊢
  simp only [serves_cons] at hs
  obtain ⟨g4, g5, g6, g7, g8, g9, -⟩ := hs
  simp only [scanFifth, g4, if_neg (Nat.not_lt.2 hb), h0, if_true, scanSignBytes, g5, g6, g7, g8, scanSignLast, g9]
  rw [or_shiftLeft_eq_ofNat (by omega) (by decide), hd, hx]
  have hlow : BitVec.ofNat 32 (w % 2 ^ 28 + (8 + e) * 2 ^ 28) = BitVec.ofNat 32 w := by
    apply BitVec.eq_of_toNat_eq
    rw [BitVec.toNat_ofNat, BitVec.toNat_ofNat]
    omega
  rw [hlow]
  rfl

/-- A varint of a 32-bit value, or of a negative one sign-extended to 64 bits, is scanned to its low 32 bits, and all
its bytes are taken. -/
theorem varint32Scan_varintBytes {w : Nat} (hw : w < 2 ^ 32 ∨ 2 ^ 64 - 2 ^ 31 ≤ w ∧ w < 2 ^ 64)
    (hs : Serves get 0 (varintBytes w)) : varint32Scan get = .ok (BitVec.ofNat 32 w, (varintBytes w).length) := by
  have hfifth (hs : Serves get 4 (varintGroups 6 (w / 128 ^ 4))) := hw.elim (scanFifth_short · hs)
    fun ⟨hlo, hhi⟩ => scanFifth_signed hlo hhi hs
  have h := scanHead_varintGroups (i := 0) (k := 4) (by simp) rfl hfifth hs
  rwa [Nat.zero_add, Nat.pow_zero, Nat.mod_one] at h

end

end Sys2Proof.Machine
end

section
/-! PROOFS. Round trips through MEM (20_memory.md R63): a read over a block of just the bytes that a write emitted. -/

namespace Sys2Proof.Machine

open Sys2Proof.Claims

variable {s t : State} {bs : List Byte} {rd wr : Instr} {b r : Reg} {x : Split64}

/-! ## A block over the bytes written -/

/-- The unit after a write of bs, the block set over just those bytes. -/
def blockOver (s : State) (bs : List Byte) : State :=
  { written s bs with start := s.wpos, pos := s.wpos, endAddr := s.wpos + BitVec.ofNat 32 bs.length }

/-- The read puts v into x[b], moves POS to END, leaves FAIL 0 and DERR as it was. -/
def ReadsBack (s : State) (bs : List Byte) (rd : Instr) (b : Reg) (v : Split64) : Prop :=
  ∃ u : State, exec rd (blockOver s bs) = .next u ∧ u.x[b] = v ∧ u.pos = (written s bs).wpos ∧
    u.status.fail = false ∧ u.status.derr = s.status.derr

/-- A write that does not fault is in range, fits and is written. -/
theorem written_of_exec {w0 : Word} {p : Prop} [Decidable p] {c : BitVec 8}
    (h : exec wr s = .next (writeEnds s w0 p c bs)) (ht : exec wr s = .next t) (hf : t.status.fault = false) :
    p ∧ s.wpos.toNat + bs.length ≤ s.memBytes ∧ t = written s bs := by
  obtain rfl : writeEnds s w0 p c bs = t := Host.Outcome.next.inj (h.symm.trans ht)
  obtain ⟨c', e⟩ | hw := writeEnds_cases s w0 p c bs
  · rw [e] at hf
    cases hf
  · exact hw

/-- A read that takes all the bytes. -/
theorem readsBack_of_finishRead {v : Split64}
    (h : exec rd (blockOver s bs) = .next ((blockOver s bs).finishRead b (.ok (v, bs.length)))) :
    ReadsBack s bs rd b v :=
  ⟨_, h, State.reg_setReg_self (blockOver s bs) b v, rfl, rfl, rfl⟩

theorem blockOver_endAddr_toNat (hfit : s.wpos.toNat + bs.length ≤ s.memBytes) :
    (blockOver s bs).endAddr.toNat = (blockOver s bs).pos.toNat + bs.length := s.wpos_add_toNat _ hfit

theorem blockOver_read (hwf : Memory.wf s.mem) {k : Nat} (hk : k < bs.length) :
    (blockOver s bs).mem.read ((blockOver s bs).pos.toNat + k) = bs[k] :=
  Memory.read_writeBytes_inside bs s.mem _ k hwf hk

/-- DecByte serves the bytes written. -/
theorem blockOver_serves (hwf : Memory.wf s.mem) (hfit : s.wpos.toNat + bs.length ≤ s.memBytes) :
    Serves (blockOver s bs).decByte 0 bs := by
  intro k hk
  have hend := blockOver_endAddr_toNat hfit
  rw [Nat.zero_add, State.decByte_inside _ k (by omega)]
  exact congrArg _ (blockOver_read hwf hk)

/-! ## Varints -/

theorem readsBack_varint32 (hwf : Memory.wf s.mem) {w : Nat} (hfit : s.wpos.toNat + (varintBytes w).length ≤ s.memBytes)
    (hw : w < 2 ^ 32 ∨ 2 ^ 64 - 2 ^ 31 ≤ w ∧ w < 2 ^ 64) {f : Word → Split64}
    (hrd : ∀ t, exec rd t = .next (t.readVarint32 b f)) : ReadsBack s (varintBytes w) rd b (f (BitVec.ofNat 32 w)) := by
  apply readsBack_of_finishRead
  rw [hrd, State.readVarint32, varint32Scan_varintBytes hw (blockOver_serves hwf hfit)]
  rfl

theorem readsBack_varint64 (hwf : Memory.wf s.mem) {w : Nat} (hfit : s.wpos.toNat + (varintBytes w).length ≤ s.memBytes)
    (hw : w < 2 ^ 64) {f : Split64 → Split64} (hrd : ∀ t, exec rd t = .next (t.readVarint64 b f)) :
    ReadsBack s (varintBytes w) rd b (f (BitVec.ofNat 64 w)) := by
  apply readsBack_of_finishRead
  rw [hrd, State.readVarint64, varint64Scan_varintBytes hw (blockOver_serves hwf hfit)]
  rfl

/-! ## Values that fit in fewer bits -/

/-- A value that fits in n bits is the zero extension of its low n bits. -/
theorem zext_setWidth {n : Nat} (h : x.toNat < 2 ^ n) : zext (x.setWidth n) = x := by
  apply BitVec.eq_of_toNat_eq
  rw [zext, BitVec.toNat_setWidth, BitVec.toNat_setWidth, Nat.mod_eq_of_lt h, Nat.mod_eq_of_lt x.isLt]

theorem sext_ofInt {n : Nat} (hn : 0 < n) {v : Int} (hlo : -2 ^ (n - 1) ≤ v) (hhi : v < 2 ^ (n - 1)) :
    sext (BitVec.ofInt n v) = BitVec.ofInt 64 v := by
  rw [sext, BitVec.signExtend, BitVec.toInt_ofInt_eq_self hn hlo hhi]

/-- A value that fits in n signed bits is the sign extension of its low n bits. -/
theorem sext_setWidth {n : Nat} (hn : 0 < n) (h64 : n ≤ 64) (hlo : -2 ^ (n - 1) ≤ x.toInt)
    (hhi : x.toInt < 2 ^ (n - 1)) :
    sext (x.setWidth n) = x := by
  rw [← BitVec.signExtend_eq_setWidth_of_le x h64, BitVec.signExtend, sext_ofInt hn hlo hhi, BitVec.ofInt_toInt]

/-- The zigzag value of a signed integer of k + 1 bits has k + 1 bits. -/
theorem zigzag_lt {n : Int} {k : Nat} (hlo : -2 ^ k ≤ n) (hhi : n < 2 ^ k) : (zigzag n).toNat < 2 ^ (k + 1) := by
  have e : (2 ^ (k + 1) : Nat) = ((2 : Int) ^ k) * 2 := by push_cast; rfl
  rw [← Int.ofNat_lt, e, zigzag]
  split <;> omega

/-- Settles O59: the scan over the bytes written gives the number written, and the read's extension or zigzag decode of
it is the register. -/
theorem varintWritesReadBack : Obligations.VarintWritesReadBack := by
  intro wr rd r b s t hwf _ hpair h ht
  simp only [List.mem_cons, List.not_mem_nil, or_false, Prod.mk.injEq] at hpair
  obtain ⟨rfl, rfl⟩ | ⟨rfl, rfl⟩ | ⟨rfl, rfl⟩ | ⟨rfl, rfl⟩ | ⟨rfl, rfl⟩ := hpair
  · obtain ⟨hx, hfit, rfl⟩ := written_of_exec (exec_wvu32_eq s r) h ht
    have hread := readsBack_varint32 (rd := .rvu32 b) (f := zext) hwf hfit (.inl hx) fun _ => rfl
    rwa [BitVec.ofNat_toNat, zext_setWidth hx] at hread
  · obtain ⟨⟨hlo, hhi⟩, hfit, rfl⟩ := written_of_exec (exec_wvs32_eq s r) h ht
    have hw : s.x[r].toNat < 2 ^ 32 ∨ 2 ^ 64 - 2 ^ 31 ≤ s.x[r].toNat ∧ s.x[r].toNat < 2 ^ 64 := by
      have := BitVec.toInt_eq_toNat_cond s.x[r]
      omega
    have hread := readsBack_varint32 (rd := .rvs32 b) (f := sext) hwf hfit hw fun _ => rfl
    rwa [BitVec.ofNat_toNat, sext_setWidth (by decide) (by decide) hlo hhi] at hread
  · obtain ⟨⟨hlo, hhi⟩, hfit, rfl⟩ := written_of_exec (exec_wvz32_eq s r) h ht
    have hw := zigzag_lt hlo hhi
    have hread := readsBack_varint32 (rd := .rvz32 b) (f := fun z => sext (zzd32 z)) hwf hfit (.inl hw) fun _ => rfl
    rwa [zzd32_eq, BitVec.toNat_ofNat, Nat.mod_eq_of_lt hw, unzigzag_zigzag, sext_ofInt (by decide) hlo hhi,
      BitVec.ofInt_toInt] at hread
  · obtain ⟨-, hfit, rfl⟩ := written_of_exec (exec_wv64_eq s r) h ht
    have hread := readsBack_varint64 (rd := .rv64 b) (f := fun v => v) hwf hfit s.x[r].isLt fun _ => rfl
    rwa [BitVec.ofNat_toNat, BitVec.setWidth_eq] at hread
  · obtain ⟨-, hfit, rfl⟩ := written_of_exec (exec_wvz64_eq s r) h ht
    have hw := zigzag_lt (k := 63) s.x[r].le_toInt s.x[r].toInt_lt
    have hread := readsBack_varint64 (rd := .rvz64 b) (f := zzd64) hwf hfit hw fun _ => rfl
    rwa [zzd64_eq, BitVec.toNat_ofNat, Nat.mod_eq_of_lt hw, unzigzag_zigzag, BitVec.ofInt_toInt] at hread

/-! ## Fixed-width integers and doubles -/

/-- Bytes j to j + n - 1 of a register in MEM are those digits of its value. -/
theorem readLE_of_byteOf {m : Memory} {n a j : Nat} (h : ∀ k < n, m.read (a + k) = byteOf x (j + k)) :
    m.readLE a n = x.toNat / 256 ^ j % 256 ^ n := by
  induction n generalizing a j with
  | zero => simp [Memory.readLE, Nat.mod_one]
  | succ n ih =>
    have h0 : m.read a = byteOf x j := h 0 (by omega)
    have hn (k : Nat) (hk : k < n) : m.read (a + 1 + k) = byteOf x (j + 1 + k) := by
      rw [Nat.add_assoc, Nat.add_assoc, Nat.add_comm 1 k]
      exact h (k + 1) (by omega)
    rw [Memory.readLE, h0, byteOf_eq_ofNat, BitVec.toNat_ofNat, ih hn, pow_succ 256 j, ← Nat.div_div_eq_div_mul,
      pow_succ' 256 n, Nat.mod_mul]

/-- Bytes j to j + k - 1 of a block over the n low bytes of x. -/
theorem blockOver_readLE (hwf : Memory.wf s.mem) {j k n : Nat} (h : j + k ≤ n) :
    (blockOver s (lowBytes x n)).mem.readLE ((blockOver s (lowBytes x n)).pos.toNat + j) k =
      x.toNat / 256 ^ j % 256 ^ k := by
  refine readLE_of_byteOf fun i hi => ?_
  rw [Nat.add_assoc, blockOver_read hwf (by rw [lowBytes_length]; omega)]
  simp [lowBytes]

theorem blockOver_readLE_start (hwf : Memory.wf s.mem) {k n : Nat} (h : k ≤ n) :
    (blockOver s (lowBytes x n)).mem.readLE (blockOver s (lowBytes x n)).pos.toNat k = x.toNat % 256 ^ k := by
  simpa using blockOver_readLE (s := s) (x := x) (j := 0) hwf (by omega : 0 + k ≤ n)

theorem readsBack_fixed (hwf : Memory.wf s.mem) {n : Nat} (hfit : s.wpos.toNat + (lowBytes x n).length ≤ s.memBytes)
    {f : Nat → Split64}
    (hrd : exec rd (blockOver s (lowBytes x n)) = .next ((blockOver s (lowBytes x n)).readFixed b n f)) :
    ReadsBack s (lowBytes x n) rd b (f (x.toNat % 256 ^ n)) := by
  have hend := blockOver_endAddr_toNat hfit
  rw [lowBytes_length] at hend
  apply readsBack_of_finishRead
  rw [hrd, State.readFixed, State.fixRead_inside _ n (by omega), blockOver_readLE_start hwf (Nat.le_refl n),
    lowBytes_length]
  rfl

theorem blockOver_twoWords (hwf : Memory.wf s.mem) : (blockOver s (lowBytes x 8)).twoWords = x := by
  apply BitVec.eq_of_toNat_eq
  rw [State.twoWords, join_toNat, blockOver_readLE_start hwf (by decide), blockOver_readLE (j := 4) hwf (by decide),
    BitVec.toNat_ofNat, BitVec.toNat_ofNat]
  omega

/-- An n-byte integer read is the low bits of the register that was written. -/
theorem ofNat_mod_eq_setWidth (x : Split64) (n : Nat) :
    BitVec.ofNat (8 * n) (x.toNat % 256 ^ n) = x.setWidth (8 * n) := by
  apply BitVec.eq_of_toNat_eq
  rw [BitVec.toNat_ofNat, BitVec.toNat_setWidth, show 256 ^ n = 2 ^ (8 * n) from (Nat.pow_mul 2 8 n).symm, Nat.mod_mod]

theorem isNaN64_iff (d : Split64) : isNaN64 d = true ↔ NaN64 d := by
  simp [isNaN64, NaN64, exp64, frac64, Nat.shiftRight_eq_div_pow]

theorem canonical64_of_NaN64 {d : Split64} (h : NaN64 d) : canonical64 d = 0x7FF8000000000000#64 :=
  if_pos ((isNaN64_iff d).2 h)

theorem canonical64_of_not_NaN64 {d : Split64} (h : ¬NaN64 d) : canonical64 d = d :=
  if_neg (mt (isNaN64_iff d).1 h)

/-- A canonical pattern stays. -/
theorem canonical64_canonical64 (d : Split64) : canonical64 (canonical64 d) = canonical64 d := by
  by_cases h : NaN64 d
  · rw [canonical64_of_NaN64 h]
    decide
  · rw [canonical64_of_not_NaN64 h, canonical64_of_not_NaN64 h]

/-- What a write of an unsigned value of n bytes emitted, the zero-extending read gives back. -/
theorem readsBack_unsigned (hwf : Memory.wf s.mem) {n : Nat} (hfit : s.wpos.toNat + (lowBytes x n).length ≤ s.memBytes)
    (hx : x.toNat < 2 ^ (8 * n))
    (hrd : ∀ t, exec rd t = .next (t.readFixed b n fun v => zext (BitVec.ofNat (8 * n) v))) :
    ReadsBack s (lowBytes x n) rd b x := by
  have h := readsBack_fixed hwf hfit (hrd _)
  rwa [ofNat_mod_eq_setWidth, zext_setWidth hx] at h

/-- The same for a signed value and the sign-extending read. -/
theorem readsBack_signed (hwf : Memory.wf s.mem) {n : Nat} (hfit : s.wpos.toNat + (lowBytes x n).length ≤ s.memBytes)
    (hn : 0 < 8 * n) (h64 : 8 * n ≤ 64) (hx : -2 ^ (8 * n - 1) ≤ x.toInt ∧ x.toInt < 2 ^ (8 * n - 1))
    (hrd : ∀ t, exec rd t = .next (t.readFixed b n fun v => sext (BitVec.ofNat (8 * n) v))) :
    ReadsBack s (lowBytes x n) rd b x := by
  have h := readsBack_fixed hwf hfit (hrd _)
  rwa [ofNat_mod_eq_setWidth, sext_setWidth hn h64 hx.1 hx.2] at h

/-- Every pair but WDBL with RDBL gives the register back. -/
theorem fixedWrite_readsBack (hwf : Memory.wf s.mem) (h : exec wr s = .next t) (ht : t.status.fault = false)
    (hpair : (wr, rd) ∈ [(Instr.wfu8 r, Instr.rfu8 b), (.wfs8 r, .rfs8 b), (.wfu16 r, .rfu16 b), (.wfs16 r, .rfs16 b),
      (.wfu32 r, .rfu32 b), (.wfs32 r, .rfs32 b), (.wf64 r, .rf64 b)]) :
    ∃ bs, t = written s bs ∧ ReadsBack s bs rd b s.x[r] := by
  simp only [List.mem_cons, List.not_mem_nil, or_false, Prod.mk.injEq] at hpair
  obtain ⟨rfl, rfl⟩ | ⟨rfl, rfl⟩ | ⟨rfl, rfl⟩ | ⟨rfl, rfl⟩ | ⟨rfl, rfl⟩ | ⟨rfl, rfl⟩ | ⟨rfl, rfl⟩ := hpair
  · obtain ⟨hx, hfit, ht⟩ := written_of_exec (exec_wfu8_eq s r) h ht
    exact ⟨_, ht, readsBack_unsigned (n := 1) hwf hfit hx fun _ => rfl⟩
  · obtain ⟨hx, hfit, ht⟩ := written_of_exec (exec_wfs8_eq s r) h ht
    exact ⟨_, ht, readsBack_signed (n := 1) hwf hfit (by decide) (by decide) hx fun _ => rfl⟩
  · obtain ⟨hx, hfit, ht⟩ := written_of_exec (exec_wfu16_eq s r) h ht
    exact ⟨_, ht, readsBack_unsigned (n := 2) hwf hfit hx fun _ => rfl⟩
  · obtain ⟨hx, hfit, ht⟩ := written_of_exec (exec_wfs16_eq s r) h ht
    exact ⟨_, ht, readsBack_signed (n := 2) hwf hfit (by decide) (by decide) hx fun _ => rfl⟩
  · obtain ⟨hx, hfit, ht⟩ := written_of_exec (exec_wfu32_eq s r) h ht
    exact ⟨_, ht, readsBack_unsigned (n := 4) hwf hfit hx fun _ => rfl⟩
  · obtain ⟨hx, hfit, ht⟩ := written_of_exec (exec_wfs32_eq s r) h ht
    exact ⟨_, ht, readsBack_signed (n := 4) hwf hfit (by decide) (by decide) hx fun _ => rfl⟩
  · obtain ⟨-, hfit, ht⟩ := written_of_exec (exec_wf64_eq s r) h ht
    refine ⟨_, ht, ?_⟩
    have hread := readsBack_fixed (rd := .rf64 b) (b := b) hwf hfit rfl
    rwa [blockOver_twoWords hwf] at hread

/-- WDBL with RDBL gives the register back, a NaN made canonical. -/
theorem wdbl_readsBack (hwf : Memory.wf s.mem) (h : exec (.wdbl r) s = .next t) (ht : t.status.fault = false) :
    ∃ bs, t = written s bs ∧ ReadsBack s bs (.rdbl b) b (canonical64 s.x[r]) := by
  obtain ⟨-, hfit, ht⟩ := written_of_exec (exec_wdbl_eq s r) h ht
  refine ⟨_, ht, ?_⟩
  have hread := readsBack_fixed (rd := .rdbl b) (b := b) hwf hfit rfl
  rwa [blockOver_twoWords hwf, canonical64_canonical64] at hread

/-! ## Tags -/

theorem tagWireType_toNat (t : Word) : (tagWireType t).toNat = t.toNat % 8 := by
  simp [tagWireType]

theorem tagField_toNat (t : Word) : (tagField t).toNat = t.toNat / 8 := by
  have := t.isLt
  rw [tagField, BitVec.extractLsb'_toNat, Nat.shiftRight_eq_div_pow]
  omega

theorem tagResult_toNat (t : Word) : (tagResult t).toNat = t.toNat % 8 * 2 ^ 32 + t.toNat / 8 := by
  rw [tagResult, join_toNat, BitVec.toNat_setWidth_of_le (by decide), BitVec.toNat_setWidth_of_le (by decide),
    tagWireType_toNat, tagField_toNat]

/-- NEXTF takes a scanned tag with a legal wire type and a field number (R222). -/
theorem execNextf_tag {rd : Reg} {t : Word} {n : Nat} (hpos : s.pos ≠ s.endAddr)
    (hscan : varint32Scan s.decByte = .ok (t, n)) (hwt : t.toNat % 8 ≤ 5) (hf : t.toNat / 8 ≠ 0) :
    execNextf rd s = .next { s with
      x := s.x.set rd (tagResult t), tag := t, pos := s.pos + BitVec.ofNat 32 n, cp := s.cp + 1#32,
      status := (s.status.setFvalid true).setFail false } := by
  have hwt' : ¬5 < (tagWireType t).toNat := by rw [tagWireType_toNat]; omega
  have hf' : tagField t ≠ 0#29 := fun h => hf (by rw [← tagField_toNat, h]; rfl)
  unfold execNextf
  rw [if_neg hpos]
  simp only [hscan, checkTag, if_neg hwt', if_neg hf']
  rfl

theorem varintGroups_ne_nil (k v : Nat) : varintGroups (k + 1) v ≠ [] := by
  rw [varintGroups]
  split <;> simp

/-- NEXTF over the bytes of a tag (R224) gives its field number and wire type. -/
theorem nextf_readsBack (hwf : Memory.wf s.mem) {f wt : Nat} (hwt : wt ≤ 5) (hf : 1 ≤ f ∧ f ≤ 2 ^ 29 - 1)
    (hbs : bs = varintBytes (f * 8 + wt)) (hfit : s.wpos.toNat + bs.length ≤ s.memBytes) :
    ∃ u : State, exec (.nextf b) (blockOver s bs) = .next u ∧ u.x[b].toNat = wt * 2 ^ 32 + f ∧
      u.status.fvalid = true ∧ u.pos = (written s bs).wpos ∧ u.status.fail = false := by
  have hlen : 0 < bs.length := List.length_pos_iff.2 (hbs ▸ varintGroups_ne_nil 9 _)
  have hend := blockOver_endAddr_toNat hfit
  have hpos : (blockOver s bs).pos ≠ (blockOver s bs).endAddr := fun h => by
    rw [h] at hend
    omega
  have hserves := blockOver_serves hwf hfit
  have hscan : varint32Scan (blockOver s bs).decByte = .ok (BitVec.ofNat 32 (f * 8 + wt), bs.length) := by
    rw [hbs] at hserves ⊢
    exact varint32Scan_varintBytes (.inl (by omega)) hserves
  have htag : (BitVec.ofNat 32 (f * 8 + wt)).toNat = f * 8 + wt := by
    rw [BitVec.toNat_ofNat]
    omega
  refine ⟨_, execNextf_tag hpos hscan (by omega) (by omega), ?_, rfl, rfl, rfl⟩
  calc ((blockOver s bs).x.set b (tagResult (BitVec.ofNat 32 (f * 8 + wt))))[b].toNat
    _ = (tagResult (BitVec.ofNat 32 (f * 8 + wt))).toNat :=
      congrArg BitVec.toNat (State.reg_setReg_self (blockOver s bs) b _)
    _ = wt * 2 ^ 32 + f := by
      rw [tagResult_toNat, htag]
      omega

/-- Settles O60: the bytes of a fixed write are the digits of the register, so the read takes it back; a tag is scanned
as its 32-bit value, whose low three bits are the wire type. -/
theorem fixedAndTagWritesReadBack : Obligations.FixedAndTagWritesReadBack := by
  intro r b s t hwf _ ht
  refine ⟨fun wr rd hpair h => ?_, fun wt h => ?_⟩
  · by_cases hd : wr = .wdbl r
    · obtain rfl : rd = .rdbl b := by simpa [hd] using hpair
      subst hd
      obtain ⟨bs, rfl, u, hu, hx, hpos, hfail, -⟩ := wdbl_readsBack (b := b) hwf h ht
      refine ⟨u, hu, ?_, hpos, hfail⟩
      by_cases hnan : NaN64 s.x[r]
      · exact .inl ⟨hnan, rfl, hx.trans (canonical64_of_NaN64 hnan)⟩
      · exact .inr ⟨fun hn => hnan hn.1, hx.trans (canonical64_of_not_NaN64 hnan)⟩
    · obtain ⟨bs, rfl, u, hu, hx, hpos, hfail, -⟩ := fixedWrite_readsBack (b := b) hwf h ht (by simpa [hd] using hpair)
      exact ⟨u, hu, .inr ⟨fun hn => hd hn.2, hx⟩, hpos, hfail⟩
  · by_cases hwt : wt.toNat ≤ 5
    · obtain ⟨hf, hfit, rfl⟩ := written_of_exec (exec_wtag_eq s r hwt) h ht
      exact nextf_readsBack hwf hwt hf rfl hfit
    · rw [exec_wtag_illegal s r hwt] at h
      cases h
      cases ht

end Sys2Proof.Machine
end

section
/-! PROOFS. The command map (30_encoding.md R80) as what it says of a word: for each row, which fields of word 0 are unused
(R77 item 2) and which values of imm8 are legal (R77 item 3), and from these everything the decoder can answer. -/

namespace Sys2Proof

open Sys2Proof.Claims

/-! ## Word 0 and its fields (R71) -/

theorem encodeR_inj {op op' imm imm' : BitVec 8} {rd rd' rs1 rs1' rs2 rs2' rs3 rs3' : Reg} :
    encodeR op rd rs1 rs2 rs3 imm = encodeR op' rd' rs1' rs2' rs3' imm' ↔
      op = op' ∧ rd = rd' ∧ rs1 = rs1' ∧ rs2 = rs2' ∧ rs3 = rs3' ∧ imm = imm' := by
  refine ⟨fun h => by simpa using congrArg fieldsOf h, ?_⟩
  rintro ⟨rfl, rfl, rfl, rfl, rfl, rfl⟩
  rfl

theorem fieldsOf_op_toNat (w : Word) : (fieldsOf w).op.toNat = w.toNat / 2 ^ 24 := by
  have := w.isLt
  rw [fieldsOf, BitVec.extractLsb'_toNat, Nat.shiftRight_eq_div_pow, Nat.mod_eq_of_lt (by omega)]

theorem fieldsOf_imm8_toNat (w : Word) : (fieldsOf w).imm8.toNat = w.toNat % 256 := by
  simp [fieldsOf]

theorem isTwoWord_iff (w : Word) : isTwoWord w = true ↔ w.toNat / 2 ^ 24 = 0x11 ∨ w.toNat / 2 ^ 24 = 0x12 := by
  rw [← fieldsOf_op_toNat, isTwoWord]
  simp [← BitVec.toNat_inj]

/-! ## Unused fields (R77 item 2) -/

/-- Which fields of word 0 beside op a row of the command map marks unused. -/
structure UnusedFields where
  rd : Bool
  rs1 : Bool
  rs2 : Bool
  rs3 : Bool
  imm8 : Bool

namespace UnusedFields

/-- The unused fields are zero. -/
def ZeroIn (b : UnusedFields) (f : Fields) : Prop :=
  (b.rd = true → f.rd = 0) ∧ (b.rs1 = true → f.rs1 = 0) ∧ (b.rs2 = true → f.rs2 = 0) ∧ (b.rs3 = true → f.rs3 = 0) ∧
    (b.imm8 = true → f.imm8 = 0#8)

/-- Ones in the unused fields, zeros elsewhere. -/
def mask (b : UnusedFields) : Word :=
  encodeR 0#8 (if b.rd then 15 else 0) (if b.rs1 then 15 else 0) (if b.rs2 then 15 else 0) (if b.rs3 then 15 else 0)
    (if b.imm8 then 0xFF#8 else 0#8)

/-- Word 0 with the op n, the used fields of f and zeros in the unused ones. -/
def word (b : UnusedFields) (n : Nat) (f : Fields) : Word :=
  encodeR (BitVec.ofNat 8 n) (if b.rd then 0 else f.rd) (if b.rs1 then 0 else f.rs1) (if b.rs2 then 0 else f.rs2)
    (if b.rs3 then 0 else f.rs3) (if b.imm8 then 0#8 else f.imm8)

theorem reg_and_mask (b : Bool) (r : Reg) :
    BitVec.ofFin (w := 4) r &&& BitVec.ofFin (w := 4) (if b then 15 else 0 : Reg) =
      BitVec.ofFin (w := 4) (if b then r else 0 : Reg) := by
  cases b
  · exact BitVec.and_zero
  · exact BitVec.and_allOnes

theorem imm8_and_mask (b : Bool) (v : BitVec 8) :
    v &&& (if b then 0xFF#8 else 0#8) = if b then v else 0#8 := by
  cases b
  · exact BitVec.and_zero
  · exact BitVec.and_allOnes

theorem and_mask (b : UnusedFields) (w : Word) :
    w &&& b.mask = encodeR 0#8 (if b.rd then (fieldsOf w).rd else 0) (if b.rs1 then (fieldsOf w).rs1 else 0)
      (if b.rs2 then (fieldsOf w).rs2 else 0) (if b.rs3 then (fieldsOf w).rs3 else 0)
      (if b.imm8 then (fieldsOf w).imm8 else 0#8) := by
  have key (a a' : BitVec 8) (r r' p p' q q' t t' : BitVec 4) (v v' : BitVec 8) :
      (a ++ (r ++ (p ++ (q ++ (t ++ v))))) &&& (a' ++ (r' ++ (p' ++ (q' ++ (t' ++ v'))))) =
        (a &&& a') ++ ((r &&& r') ++ ((p &&& p') ++ ((q &&& q') ++ ((t &&& t') ++ (v &&& v'))))) := by
    simp only [BitVec.and_append]
  conv_lhs => rw [← encodeR_fieldsOf w]
  refine (key ..).trans ?_
  simp only [encodeR, reg_and_mask, imm8_and_mask, BitVec.and_zero]

theorem and_mask_eq_zero_iff (b : UnusedFields) (w : Word) : w &&& b.mask = 0#32 ↔ b.ZeroIn (fieldsOf w) := by
  have h0 : 0#32 = encodeR 0#8 0 0 0 0 0#8 := rfl
  rw [and_mask, h0, encodeR_inj]
  simp [ZeroIn]

theorem word_fieldsOf {b : UnusedFields} {w : Word} (h : b.ZeroIn (fieldsOf w)) :
    b.word (fieldsOf w).op.toNat (fieldsOf w) = w := by
  obtain ⟨hrd, hrs1, hrs2, hrs3, himm⟩ := h
  conv_rhs => rw [← encodeR_fieldsOf w]
  rw [word, encodeR_inj]
  simp only [BitVec.ofNat_toNat, BitVec.setWidth_eq, ite_eq_right_iff, true_and]
  exact ⟨fun h => (hrd h).symm, fun h => (hrs1 h).symm, fun h => (hrs2 h).symm, fun h => (hrs3 h).symm,
    fun h => (himm h).symm⟩

end UnusedFields

/-! ## Legal immediates (R77 item 3) -/

/-- imm8 is legal for the op n, as far as R75 limits it. -/
def immLegal (n : Nat) (imm8 : BitVec 8) : Bool :=
  if n = 0x20 ∨ n = 0x21 then crLegal imm8 else if n = 0x51 ∨ n = 0x52 then wtLegal imm8 else true

theorem ifImm_true (r : Except Reject Instr) : ifImm true r = r := by
  cases r <;> rfl

theorem illegal_iff {w m : Word} (hm : unusedBits (fieldsOf w).op.toNat = some m) :
    Illegal w ↔ w &&& m ≠ 0#32 ∨ immLegal (fieldsOf w).op.toNat (fieldsOf w).imm8 = false := by
  rw [fieldsOf_op_toNat] at hm ⊢
  simp only [Illegal, hm, immLegal, crLegal, wtLegal, fieldsOf_imm8_toNat]
  refine or_congr_right ?_
  split_ifs
  · rw [decide_eq_false_iff_not]
    omega
  · rw [decide_eq_false_iff_not]
    omega
  · simp only [iff_false]
    omega

/-! ## Everything the decoder can answer -/

/-- What the command map answers for a word: a rejection if the word is illegal, else the command it is word 0 of, with imm
as its word 1 if it has one. -/
inductive Reads (w imm : Word) : Except Reject Instr → Prop
  | illegal (e : Reject) (h : Illegal w) : Reads w imm (.error e)
  | command (i : Instr) (h : ¬Illegal w) (hwf : i.wellFormed = true) (h0 : i.word0 = w)
      (h1 : i.word1 = if isTwoWord w then [imm] else []) : Reads w imm (.ok i)

/-- The reserved ops of R78 are those that are not in the map. -/
theorem unusedBits_of_reserved {n : Nat}
    (h : n = 0x00 ∨ (0x15 ≤ n ∧ n ≤ 0x1F) ∨ (0x25 ≤ n ∧ n ≤ 0x2F) ∨ n = 0x3E ∨ n = 0x3F ∨ n = 0x4E ∨ n = 0x4F ∨
      0x53 ≤ n) :
    unusedBits n = none := by
  unfold unusedBits
  repeat rw [if_neg (by omega)]

/-- An op that is not in the map. -/
theorem illegal_of_unusedBits_none {w : Word} (h : unusedBits (w.toNat / 2 ^ 24) = none) : Illegal w := by
  simp only [Illegal, h]

/-- A row of the map: the op n, the unused fields b and the command i made of the used ones. -/
theorem Reads.of_row {w imm : Word} {i : Instr} {n : Nat} {zero : Bool} (b : UnusedFields) (hop : (fieldsOf w).op.toNat = n)
    (hm : unusedBits n = some b.mask) (h0 : i.word0 = b.word n (fieldsOf w))
    (h1 : i.word1 = if n = 0x11 ∨ n = 0x12 then [imm] else []) (hwf : i.wellFormed = immLegal n (fieldsOf w).imm8)
    (hz : zero = true ↔ b.ZeroIn (fieldsOf w)) :
    Reads w imm (ifImm (immLegal n (fieldsOf w).imm8) (ifUnused zero i)) := by
  subst hop
  have hill := illegal_iff hm
  rw [Ne, b.and_mask_eq_zero_iff, ← hz] at hill
  cases zero with
  | false => exact .illegal _ (hill.2 (.inl nofun))
  | true =>
    cases hl : immLegal (fieldsOf w).op.toNat (fieldsOf w).imm8 with
    | false => exact .illegal _ (hill.2 (.inr hl))
    | true =>
      refine .command i (by simp [hill, hl]) (hwf.trans hl) ?_ ?_
      · rw [h0, UnusedFields.word_fieldsOf (hz.1 rfl)]
      · simp only [h1, isTwoWord_iff, fieldsOf_op_toNat]

/-- The same for a row that does not limit imm8. -/
theorem Reads.of_freeRow {w imm : Word} {i : Instr} {n : Nat} {zero : Bool} (b : UnusedFields)
    (hop : (fieldsOf w).op.toNat = n) (hm : unusedBits n = some b.mask) (hl : immLegal n = fun _ => true)
    (h0 : i.word0 = b.word n (fieldsOf w)) (h1 : i.word1 = if n = 0x11 ∨ n = 0x12 then [imm] else [])
    (hwf : i.wellFormed = true) (hz : zero = true ↔ b.ZeroIn (fieldsOf w)) : Reads w imm (ifUnused zero i) := by
  have h := Reads.of_row (imm := imm) b hop hm h0 h1 (by rw [hwf, hl]) hz
  rwa [hl, ifImm_true] at h

/-- Everything the command map can answer: the rows in the order of `decodeFields`, those that leave the same fields unused
together (rd, rs1, rs2, rs3, imm8), and last the ops that no row has. -/
theorem decodeFields_reads (w imm : Word) : Reads w imm (decodeFields (fieldsOf w) imm) := by
  unfold decodeFields
  split
  case h_1 h | h_2 h | h_3 h | h_7 h | h_8 h =>
    exact .of_freeRow ⟨false, false, false, true, true⟩ h rfl rfl rfl rfl rfl (by simp [UnusedFields.ZeroIn])
  case h_4 h =>
    exact .of_freeRow ⟨false, false, false, false, true⟩ h rfl rfl rfl rfl rfl (by simp [UnusedFields.ZeroIn])
  case h_5 h | h_6 h | h_9 h | h_10 h | h_11 h | h_12 h | h_13 h | h_14 h | h_15 h | h_16 h | h_19 h | h_20 h =>
    exact .of_freeRow ⟨false, false, true, true, true⟩ h rfl rfl rfl rfl rfl (by simp [UnusedFields.ZeroIn, and_assoc])
  case h_17 h | h_18 h | h_25 h | h_26 h | h_27 h | h_28 h | h_29 h | h_30 h | h_31 h | h_32 h | h_33 h
    | h_34 h | h_35 h | h_36 h | h_37 h | h_38 h | h_39 h | h_54 h =>
    exact .of_freeRow ⟨false, true, true, true, true⟩ h rfl rfl rfl rfl rfl (by simp [UnusedFields.ZeroIn, and_assoc])
  case h_21 h =>
    exact .of_row ⟨false, true, true, true, false⟩ h rfl rfl rfl rfl (by simp [UnusedFields.ZeroIn, and_assoc])
  case h_22 h | h_56 h =>
    exact .of_row ⟨true, false, true, true, false⟩ h rfl rfl rfl rfl (by simp [UnusedFields.ZeroIn, and_assoc])
  case h_23 h =>
    exact .of_freeRow ⟨true, false, false, true, true⟩ h rfl rfl rfl rfl rfl (by simp [UnusedFields.ZeroIn, and_assoc])
  case h_24 h | h_40 h | h_41 h | h_42 h | h_43 h | h_44 h | h_45 h | h_46 h | h_47 h | h_48 h | h_49 h
    | h_50 h | h_51 h | h_52 h | h_53 h =>
    exact .of_freeRow ⟨true, false, true, true, true⟩ h rfl rfl rfl rfl rfl (by simp [UnusedFields.ZeroIn, and_assoc])
  case h_55 h =>
    exact .of_row ⟨true, true, true, true, false⟩ h rfl rfl rfl rfl (by simp [UnusedFields.ZeroIn, and_assoc])
  case h_57 =>
    simp only [imp_false] at *
    rw [fieldsOf_op_toNat] at *
    exact .illegal _ (illegal_of_unusedBits_none (unusedBits_of_reserved (by omega)))

end Sys2Proof
end

section
/-! PROOFS. The decoder and the encoder are inverse to each other (30_encoding.md R71 to R80, R83): what the map says of
word 0 lifted to the lists of words. -/

namespace Sys2Proof

open Sys2Proof.Claims

variable {w imm : Word} {i : Instr}

/-! ## One command -/

theorem decodeFields_of_illegal (h : Illegal w) (imm : Word) : ∃ e, decodeFields (fieldsOf w) imm = .error e := by
  cases hd : decodeFields (fieldsOf w) imm with
  | error e => exact ⟨e, rfl⟩
  | ok i =>
    cases hd ▸ decodeFields_reads w imm with
    | command _ hn => exact absurd h hn

theorem decodeFields_of_not_illegal (h : ¬Illegal w) (imm : Word) : ∃ i, decodeFields (fieldsOf w) imm = .ok i := by
  cases hd : decodeFields (fieldsOf w) imm with
  | ok i => exact ⟨i, rfl⟩
  | error e =>
    cases hd ▸ decodeFields_reads w imm with
    | illegal _ hi => exact absurd hi h

theorem of_decodeFields_ok (h : decodeFields (fieldsOf w) imm = .ok i) :
    i.wellFormed = true ∧ i.word0 = w ∧ i.word1 = if isTwoWord w then [imm] else [] := by
  cases h ▸ decodeFields_reads w imm with
  | command _ _ hwf h0 h1 => exact ⟨hwf, h0, h1⟩

/-- Word 0 of a well-formed command decodes to it, its word 1 being supplied where it has one. -/
theorem decodeFields_word0 (hwf : i.wellFormed = true) :
    decodeFields (fieldsOf i.word0) (i.word1.headD 0#32) = .ok i := by
  cases i
  case mfcr | mtcr | wtchk | wtag =>
    rw [Instr.word0, fieldsOf_encodeR]
    exact if_pos hwf
  all_goals
    rw [Instr.word0, fieldsOf_encodeR]
    rfl

/-- A command has a word 1 exactly when its op is one of the two-word ops (R73). -/
theorem Instr.word1_cases (i : Instr) :
    (isTwoWord i.word0 = false ∧ i.word1 = []) ∨ (isTwoWord i.word0 = true ∧ ∃ imm, i.word1 = [imm]) := by
  cases i
  case ldlo _ imm | ldhi _ imm => exact .inr ⟨by simp [isTwoWord, Instr.word0], imm, rfl⟩
  all_goals exact .inl ⟨by simp [isTwoWord, Instr.word0], rfl⟩

/-! ## The command stream -/

theorem decode_oneWord (hw : isTwoWord w = false) (rest : List Word) :
    decode (w :: rest) = (decodeFields (fieldsOf w) 0#32).map (·, rest) := by
  simp [decode, hw]

theorem decode_twoWords (hw : isTwoWord w = true) (w1 : Word) (rest : List Word) :
    decode (w :: w1 :: rest) = (decodeFields (fieldsOf w) w1).map (·, rest) := by
  simp [decode, hw]

theorem decode_missingWord (hw : isTwoWord w = true) : decode [w] = .error .missingWord := by
  simp [decode, hw]

theorem ok_of_map_rest {r : Except Reject Instr} {rest rest' : List Word} (h : r.map (·, rest) = .ok (i, rest')) :
    r = .ok i ∧ rest = rest' := by
  cases r with
  | error e => cases h
  | ok j =>
    cases h
    exact ⟨rfl, rfl⟩

/-- Settles O1: by the number of words, each command's word 0 being a row of the map. -/
theorem decodeOfEncodeIsTheCommand : Obligations.DecodeOfEncodeIsTheCommand := by
  intro i rest hwf
  have hd := decodeFields_word0 hwf
  rw [encode, List.cons_append]
  obtain ⟨hw, h1⟩ | ⟨hw, imm, h1⟩ := i.word1_cases
  · rw [h1] at hd ⊢
    exact (decode_oneWord hw rest).trans (congrArg _ hd)
  · rw [h1] at hd ⊢
    exact (decode_twoWords hw imm rest).trans (congrArg _ hd)

/-- Settles O2: an answer of the map is the command whose words were read. -/
theorem decodedWordsAreTheEncoding : Obligations.DecodedWordsAreTheEncoding := by
  intro ws rest i h
  cases ws with
  | nil => cases h
  | cons w ws =>
    cases hw : isTwoWord w with
    | false =>
      rw [decode_oneWord hw] at h
      obtain ⟨hd, rfl⟩ := ok_of_map_rest h
      obtain ⟨hwf, h0, h1⟩ := of_decodeFields_ok hd
      exact ⟨by simp [encode, h0, h1, hw], hwf⟩
    | true =>
      cases ws with
      | nil =>
        rw [decode_missingWord hw] at h
        cases h
      | cons w1 ws =>
        rw [decode_twoWords hw] at h
        obtain ⟨hd, rfl⟩ := ok_of_map_rest h
        obtain ⟨hwf, h0, h1⟩ := of_decodeFields_ok hd
        exact ⟨by simp [encode, h0, h1, hw], hwf⟩

/-- Settles O3: each list is the encoding of the command beside it. -/
theorem workedEncodingsDecode : Obligations.WorkedEncodingsDecode := by
  have h (i : Instr) (hwf : i.wellFormed = true) : decode (encode i) = .ok (i, []) := by
    simpa using decodeOfEncodeIsTheCommand i [] hwf
  exact ⟨h (.add 1 2 3) rfl, h (.div 4 5 6 7) rfl, h (.mfcr 2 0#8) rfl, h (.mtcr 2#8 9) rfl, h (.ldlo 3 0xDEADBEEF#32) rfl,
    h (.wtag 1 2#8) rfl, h (.nextf 0) rfl⟩

end Sys2Proof
end

section
/-! PROOFS. What a step does with a command word in a ready unit (30_encoding.md R70, R73, R77, R78): the fault of an illegal
word, the command of any other, and how many words it takes. -/

namespace Sys2Proof.Machine

open Sys2Proof.Claims

variable {s t : State} {i : Instr} {w w1 : Word} {rest : List HostAction}

/-! ## The two ways a command word runs -/

theorem step_oneWord_ok (hs : s.ready) (hw : isTwoWord w = false) (hd : decodeFields (fieldsOf w) 0#32 = .ok i) :
    step (s.sent w rest) = exec i { s with input := rest } := by
  rw [step_oneWord s w rest hs hw, hd]

theorem step_twoWords_ok (hs : s.ready) (hw : isTwoWord w = true) (hd : decodeFields (fieldsOf w) w1 = .ok i) :
    step (s.sent w (.word w1 :: rest)) = exec i { s with input := rest } := by
  rw [step_twoWords s w w1 rest hs hw, hd]

theorem step_oneWord_illegal (hs : s.ready) (hw : isTwoWord w = false) (h : Illegal w) :
    step (s.sent w rest) = .next (contractFault 1#8 w { s with input := rest }) := by
  obtain ⟨e, hd⟩ := decodeFields_of_illegal h 0#32
  rw [step_oneWord s w rest hs hw, hd]
  rfl

theorem step_twoWords_illegal (hs : s.ready) (hw : isTwoWord w = true) (h : Illegal w) :
    step (s.sent w (.word w1 :: rest)) = .next (contractFault 1#8 w { s with input := rest }) := by
  obtain ⟨e, hd⟩ := decodeFields_of_illegal h w1
  rw [step_twoWords s w w1 rest hs hw, hd]
  rfl

/-- Settles O7: the decoder gives the command back from its own word 0. -/
theorem stepRunsTheDecodedCommand : Obligations.StepRunsTheDecodedCommand := by
  intro s i rest hs hwf
  have hd := decodeFields_word0 hwf
  rw [encode, List.map_cons, List.cons_append]
  obtain ⟨hw, h1⟩ | ⟨hw, imm, h1⟩ := i.word1_cases
  · rw [h1] at hd ⊢
    exact step_oneWord_ok hs hw hd
  · rw [h1] at hd ⊢
    exact step_twoWords_ok hs hw hd

/-- Settles O4: the map answers a command exactly for a word that is not illegal, and the length depends on op alone. -/
theorem illegalWordsFaultAndOthersRun : Obligations.IllegalWordsFaultAndOthersRun := by
  intro s w w1 rest hs
  simp only [← isTwoWord_iff]
  cases hw : isTwoWord w with
  | false =>
    refine ⟨fun h => step_oneWord_illegal hs hw h, fun h => ?_⟩
    obtain ⟨i, hd⟩ := decodeFields_of_not_illegal h 0#32
    obtain ⟨hwf, h0, h1⟩ := of_decodeFields_ok hd
    exact ⟨i, hwf, h0, by simpa [hw] using h1, step_oneWord_ok hs hw hd⟩
  | true =>
    refine ⟨fun h => step_twoWords_illegal hs hw h, fun h => ?_⟩
    obtain ⟨i, hd⟩ := decodeFields_of_not_illegal h w1
    obtain ⟨hwf, h0, h1⟩ := of_decodeFields_ok hd
    exact ⟨i, hwf, h0, by simpa [hw] using h1, step_twoWords_ok hs hw hd⟩

/-- Settles O5: the reserved ops have no row in the map, and none of them is a two-word op. -/
theorem reservedOpsAreIllegal : Obligations.ReservedOpsAreIllegal := by
  intro s w rest hs h
  have hw : isTwoWord w = false := by
    rw [← Bool.not_eq_true, isTwoWord_iff]
    omega
  exact step_oneWord_illegal hs hw (illegal_of_unusedBits_none (unusedBits_of_reserved h))

/-! ## How many words a step takes -/

/-- The commands that take bytes of the wire or emit some are one word long. -/
theorem length_eq_one_of (h : canDecodeError i = true ∨ isWrite i = true) : i.length = 1 := by
  cases i
  case ldlo | ldhi => simp [canDecodeError, isRead, isWrite] at h
  all_goals rfl

/-- CP advances by the command's length unless the command faults (R22, R73). -/
theorem Ends.cp_eq (h : Ends i s t) (hf : s.status.fault = false) :
    t.cp = if t.status.fault then s.cp else s.cp + BitVec.ofNat 32 i.length := by
  cases h with
  | fault => rfl
  | result => simp [hf]
  | divZero _ _ _ _ hi | div _ _ _ _ _ _ hi | pass _ hi | block _ _ hi | moved _ hi | noField _ hi | badField _ _ hi
    | field _ _ _ hi =>
    subst hi
    exact (if_neg (by simp [hf])).symm
  | cursor _ _ _ hi ht =>
    subst hi
    obtain ⟨_, _, _, _, rfl⟩ := State.writeCursor_only_cursors ht
    exact (if_neg (by simp [hf])).symm
  | read _ _ _ hi => simp [hf, length_eq_one_of (.inl (canDecodeError_of_isRead hi))]
  | error _ hi => simp [hf, length_eq_one_of (.inl hi)]
  | wrote _ hi => simp [hf, length_eq_one_of (.inr hi)]

/-- A command in a unit that is not halted leaves the port alone and advances CP by its length unless it faults. -/
theorem exec_takes_length (hs : s.ready) {n : Nat} (hn : i.length = n) :
    ∃ t, exec i s = .next t ∧ t.input = s.input ∧ t.latch = none ∧
      t.cp = if t.status.fault then s.cp else s.cp + BitVec.ofNat 32 n := by
  obtain ⟨hfault, hlatch⟩ := hs
  obtain ⟨t, he, hends⟩ := exec_ends s i
  obtain ⟨-, hl, hin⟩ := hends.cfg_latch_input_eq
  exact ⟨t, he, hin, hl.trans hlatch, hn ▸ hends.cp_eq hfault⟩

theorem step_takes_oneWord (hs : s.ready) (hw : isTwoWord w = false) :
    ∃ t, step (s.sent w rest) = .next t ∧ t.input = rest ∧ t.latch = none ∧
      t.cp = if t.status.fault then s.cp else s.cp + 1#32 := by
  by_cases h : Illegal w
  · exact ⟨_, step_oneWord_illegal hs hw h, rfl, hs.2, rfl⟩
  · obtain ⟨i, hd⟩ := decodeFields_of_not_illegal h 0#32
    obtain ⟨-, -, h1⟩ := of_decodeFields_ok hd
    rw [step_oneWord_ok hs hw hd]
    exact exec_takes_length (s := { s with input := rest }) hs (by simp [Instr.length, encode, h1, hw])

theorem step_takes_twoWords (hs : s.ready) (hw : isTwoWord w = true) (w1 : Word) :
    ∃ t, step (s.sent w (.word w1 :: rest)) = .next t ∧ t.input = rest ∧ t.latch = none ∧
      t.cp = if t.status.fault then s.cp else s.cp + 2#32 := by
  by_cases h : Illegal w
  · exact ⟨_, step_twoWords_illegal hs hw h, rfl, hs.2, rfl⟩
  · obtain ⟨i, hd⟩ := decodeFields_of_not_illegal h w1
    obtain ⟨-, -, h1⟩ := of_decodeFields_ok hd
    rw [step_twoWords_ok hs hw hd]
    exact exec_takes_length (s := { s with input := rest }) hs (by simp [Instr.length, encode, h1, hw])

/-- Settles O6: by the length of the word's op; a two-word op with no word behind it goes to the latch. -/
theorem stepTakesExactlyTheCommandsWords : Obligations.StepTakesExactlyTheCommandsWords := by
  intro s w rest hs
  refine ⟨fun hop => ?_, fun hop => ?_⟩
  · exact step_takes_oneWord hs (by rw [← Bool.not_eq_true, isTwoWord_iff]; omega)
  · have hw := (isTwoWord_iff w).2 hop
    exact ⟨step_takes_twoWords hs hw, step_latches s w rest hs hw⟩

end Sys2Proof.Machine
end

section
/-! PROOFS. Which words run as a command and which take the ILLEGAL fault (30_encoding.md R77, R80), said once for a
row of the command map. -/

namespace Sys2Proof.Machine

open Sys2Proof.Claims

variable {op : BitVec 8} {legal : BitVec 8 → Bool} {w : Word} {i : Instr}

/-! ## The unused fields of a row -/

/-- All but rd: bits 19:0, which format K leaves unused too (R72). -/
def unusedButRd : UnusedFields := ⟨false, true, true, true, true⟩

/-- All but rd and rs1: bits 15:0. -/
def unusedButRdRs1 : UnusedFields := ⟨false, false, true, true, true⟩

/-- All but rd, rs1 and rs2: bits 11:0. -/
def unusedButRdRs1Rs2 : UnusedFields := ⟨false, false, false, true, true⟩

/-- imm8 alone. -/
def unusedImm8 : UnusedFields := ⟨false, false, false, false, true⟩

theorem unusedButRd_mask : unusedButRd.mask = 0x000FFFFF#32 := rfl

/-! ## How the words of a row run -/

/-- Whether a word is one of a two-word command depends on its op alone (R73). -/
theorem isTwoWord_unusedFields_word (b : UnusedFields) (w : Word) (f : Fields) :
    isTwoWord (b.word (fieldsOf w).op.toNat f) = isTwoWord w := by
  simp [isTwoWord, UnusedFields.word]

/-- A word is one of a two-word command exactly when the command of its row has a word 1. -/
theorem isTwoWord_eq_of_word0 {b : UnusedFields} {f : Fields} (h0 : i.word0 = b.word (fieldsOf w).op.toNat f) :
    isTwoWord w = !i.word1.isEmpty := by
  rw [← isTwoWord_unusedFields_word b w f, ← h0]
  obtain ⟨hw, h1⟩ | ⟨hw, imm, h1⟩ := i.word1_cases
  · rw [hw, h1]
    rfl
  · rw [hw, h1]
    rfl

/-- A word whose unused fields are zero decodes to the command that the map makes of the used ones. -/
theorem decodeFields_of_zeroIn {b : UnusedFields} (hz : b.ZeroIn (fieldsOf w)) (hwf : i.wellFormed = true)
    (h0 : i.word0 = b.word (fieldsOf w).op.toNat (fieldsOf w)) :
    decodeFields (fieldsOf w) (i.word1.headD 0#32) = .ok i := by
  have hd := decodeFields_word0 hwf
  rwa [h0, UnusedFields.word_fieldsOf hz] at hd

/-- A one-word row of the map: the op, the unused fields `b`, the legal values of imm8 and the command `mk` makes of the
used fields. -/
theorem runsAs_of_row {mk : Fields → Instr} (b : UnusedFields) (hm : unusedBits op.toNat = some b.mask)
    (hl : immLegal op.toNat = legal)
    (hmk : ∀ f, (mk f).wellFormed = legal f.imm8 ∧ (mk f).word0 = b.word op.toNat f ∧ (mk f).word1 = []) :
    RunsAs op b.mask legal mk := by
  rintro s w rest hs rfl
  obtain ⟨hwf, h0, h1⟩ := hmk (fieldsOf w)
  have hw : isTwoWord w = false := by simp [isTwoWord_eq_of_word0 h0, h1]
  split
  next h =>
    obtain ⟨hz, hi⟩ := h
    have hd := decodeFields_of_zeroIn ((b.and_mask_eq_zero_iff w).1 hz) (hwf.trans hi) h0
    rw [h1] at hd
    exact step_oneWord_ok hs hw hd
  next h =>
    refine step_oneWord_illegal hs hw ((illegal_iff hm).2 ?_)
    rwa [hl, ← Bool.not_eq_true, ← not_and_or]

/-- A two-word row of the map: rd and word 1 are used, and word 1 may have any value (R72, R73). -/
theorem runsAsTwoWords_of_row {mk : Fields → Word → Instr} (hm : unusedBits op.toNat = some unusedButRd.mask)
    (hmk : ∀ f w1, (mk f w1).wellFormed = true ∧ (mk f w1).word0 = unusedButRd.word op.toNat f ∧
      (mk f w1).word1 = [w1]) :
    RunsAsTwoWords op mk := by
  rintro s w w1 rest hs rfl
  obtain ⟨hwf, h0, h1⟩ := hmk (fieldsOf w) w1
  have hw : isTwoWord w = true := by simp [isTwoWord_eq_of_word0 h0, h1]
  rw [← unusedButRd_mask]
  split
  next h =>
    have hd := decodeFields_of_zeroIn ((unusedButRd.and_mask_eq_zero_iff w).1 h) hwf h0
    rw [h1] at hd
    exact step_twoWords_ok hs hw hd
  next h => exact step_twoWords_illegal hs hw ((illegal_iff hm).2 (.inl h))

/-! ## Commands whose only result is x[rd] -/

theorem State.result_eq_wrote (s : State) (rd : Reg) (v : Split64) : s.result rd v = wrote s rd v := rfl

/-- A command that ends in one result, its value said in another way. -/
theorem exec_eq_wrote {s : State} {rd : Reg} {v v' : Split64} (h : exec i s = .next (s.result rd v)) (hv : v = v') :
    exec i s = .next (wrote s rd v') := by
  rw [h, hv, State.result_eq_wrote]

end Sys2Proof.Machine
end

section
/-! PROOFS. Split64 arithmetic on halves (40_split64.md R101 to R111, R117, R118) as functions of the whole value. -/

namespace Sys2Proof.Machine

open Sys2Proof.Claims

/-! ## Sums and differences (R101, R102) -/

theorem add64_eq (a b : Split64) : add64 a b = a + b := by
  apply BitVec.eq_of_toNat_eq
  simp only [add64, join_toNat, BitVec.toNat_ofNat, lo_toNat, hi_toNat, BitVec.toNat_add]
  split <;> omega

theorem sub64_eq (a b : Split64) : sub64 a b = a - b := by
  apply BitVec.eq_of_toNat_eq
  simp only [sub64, join_toNat, BitVec.toNat_ofInt, lo_toNat, hi_toNat, BitVec.toNat_sub]
  split <;> omega

/-! ## Products and quotients (R103, R104) -/

theorem mul64_eq (a b : Split64) : mul64 a (lo b) = BitVec.ofNat 64 (a.toNat * (b.toNat % 2 ^ 32)) := by
  rw [mul64, split, u_eq_toNat, lo_toNat, ← Int.natCast_mul, BitVec.ofInt_natCast]

theorem lo_eq_zero_iff (v : Split64) : lo v = 0#32 ↔ v.toNat % 2 ^ 32 = 0 := by
  rw [← BitVec.toNat_inj, lo_toNat]
  rfl

theorem split_divQuotient (a b : Split64) :
    split (divQuotient a (lo b)) = BitVec.ofNat 64 (a.toNat / (b.toNat % 2 ^ 32)) := by
  rw [divQuotient, split, u_eq_toNat, lo_toNat, BitVec.ofInt_natCast]

theorem zext_eq_ofNat (p : Word) : zext p = BitVec.ofNat 64 p.toNat := (BitVec.ofNat_toNat 64 p).symm

/-- The remainder is below the divisor, so it fits in a half. -/
theorem zext_divRemainder (a b : Split64) (hb : b.toNat % 2 ^ 32 ≠ 0) :
    zext (BitVec.ofNat 32 (divRemainder a (lo b))) = BitVec.ofNat 64 (a.toNat % (b.toNat % 2 ^ 32)) := by
  have hr : divRemainder a (lo b) = a.toNat % (b.toNat % 2 ^ 32) := by
    rw [divRemainder, divQuotient, u_eq_toNat, lo_toNat, Nat.mul_comm, ← Nat.mod_eq_sub_mul_div]
  have hlt := Nat.mod_lt a.toNat (Nat.pos_of_ne_zero hb)
  rw [hr, zext_eq_ofNat, BitVec.toNat_ofNat, Nat.mod_eq_of_lt (by omega)]

/-! ## Compares and tests (R107 to R111) -/

/-- Two values are equal when both halves are. -/
theorem eq_iff_hi_lo (a b : Split64) : a = b ↔ hi a = hi b ∧ lo a = lo b :=
  ⟨fun h => h ▸ ⟨rfl, rfl⟩, fun ⟨hh, hl⟩ => by rw [← join_lo_hi a, hh, hl, join_lo_hi]⟩

/-- The unsigned order by halves, hi deciding before lo. -/
theorem toNat_lt_iff_hi_lo (a b : Split64) :
    a.toNat < b.toNat ↔ (hi a).toNat < (hi b).toNat ∨ (hi a = hi b ∧ (lo a).toNat < (lo b).toNat) := by
  simp only [← BitVec.toNat_inj, hi_toNat, lo_toNat]
  omega

theorem cmpu64_eq (a b : Split64) :
    cmpu64 a b = if a.toNat < b.toNat then 0xFFFFFFFFFFFFFFFF#64 else if a = b then 0#64 else 1#64 := by
  simp only [cmpu64, ← toNat_lt_iff_hi_lo, ← eq_iff_hi_lo]
  rfl

theorem cmps64_eq (a b : Split64) :
    cmps64 a b = if a.toInt < b.toInt then 0xFFFFFFFFFFFFFFFF#64 else if a = b then 0#64 else 1#64 := by
  simp only [cmps64, sgn_eq_toInt, BitVec.toInt_inj]
  rfl

theorem bit_isZero (a : Split64) : bit (lo a == 0#32 && hi a == 0#32) = if a = 0#64 then 1#64 else 0#64 := by
  have h : a = 0#64 ↔ hi a = 0#32 ∧ lo a = 0#32 := eq_iff_hi_lo a 0#64
  simp [bit_eq, h, and_comm]

theorem bit_msb (a : Split64) : bit ((hi a).getLsbD 31) = if a.toInt < 0 then 1#64 else 0#64 := by
  have h : (hi a).getLsbD 31 = a.msb := getLsbD_hi a 31
  rw [bit_eq, h, BitVec.msb_eq_toInt]
  simp only [decide_eq_true_eq]

theorem bit_lsb (a : Split64) : bit ((lo a).getLsbD 0) = if a.toNat % 2 = 1 then 1#64 else 0#64 := by
  have h : (lo a).getLsbD 0 = decide (a.toNat % 2 = 1) := (getLsbD_lo a 0).trans (Nat.testBit_zero _)
  rw [bit_eq, h]
  simp only [decide_eq_true_eq]

/-! ## Halves replaced (R117, R118) -/

theorem join_eq_ofNat (l h : Word) : join l h = BitVec.ofNat 64 (h.toNat * 2 ^ 32 + l.toNat) := by
  rw [← join_toNat, BitVec.ofNat_toNat, BitVec.setWidth_eq]

end Sys2Proof.Machine
end

section
/-! PROOFS. The 32-bit zigzag (40_split64.md R114, R115) as a function of the low half, and that each zigzag decode
undoes its encode. -/

namespace Sys2Proof.Machine

open Sys2Proof.Claims

/-! ## The 32-bit values -/

theorem lo_eq_setWidth (v : Split64) : lo v = v.setWidth 32 := BitVec.eq_of_toNat_eq (by simp [lo_toNat])

theorem zze32_eq (p : Word) : zze32 p = BitVec.ofInt 32 (zigzag p.toInt) := by
  have hm : p.getLsbD 31 = p.msb := rfl
  rw [ofInt_zigzag_toInt, zze32, hm]
  cases p.msb
  · exact mask32_false_xor _
  · exact mask32_true_xor _

/-- As an integer below 2^32, with no reduction. -/
theorem zze32_toNat (p : Word) : (zze32 p).toNat = (zigzag p.toInt).toNat := by
  have h1 := p.le_toInt
  have h2 := p.toInt_lt
  rw [zze32_eq, BitVec.toNat_ofInt, zigzag]
  split <;> omega

/-- The zigzag value is not negative, so its 64-bit pattern is the zero extension of the 32-bit one. -/
theorem zext_zze32 (p : Word) : zext (zze32 p) = BitVec.ofInt 64 (zigzag p.toInt) := by
  have h0 : zigzag p.toInt = (zigzag p.toInt).toNat := by
    unfold zigzag
    split <;> omega
  rw [zext_eq_ofNat, zze32_toNat, h0, BitVec.ofInt_natCast, Int.toNat_natCast]

/-- The integer of an unsigned zigzag value of k + 1 bits has k + 1 bits. -/
theorem unzigzag_bounds {z k : Nat} (h : z < 2 ^ (k + 1)) : -2 ^ k ≤ unzigzag z ∧ unzigzag z < 2 ^ k := by
  have e : ((2 ^ (k + 1) : Nat) : Int) = (2 : Int) ^ k * 2 := by push_cast; rfl
  rw [← Int.ofNat_lt, e] at h
  unfold unzigzag
  split <;> omega

theorem sext_zzd32 (z : Word) : sext (zzd32 z) = BitVec.ofInt 64 (unzigzag z.toNat) := by
  obtain ⟨hlo, hhi⟩ := unzigzag_bounds (k := 31) z.isLt
  rw [zzd32_eq, sext_ofInt (by decide) hlo hhi]

/-! ## Decode undoes encode -/

theorem zigzag_unzigzag (z : Nat) : zigzag (unzigzag z) = z := by
  unfold zigzag unzigzag
  split <;> split <;> omega

theorem zzd64_zze64 (a : Split64) : zzd64 (zze64 a) = a := by
  rw [zzd64_eq, zze64_toNat, unzigzag_zigzag, BitVec.ofInt_toInt]

theorem zze64_zzd64 (z : Split64) : zze64 (zzd64 z) = z := by
  obtain ⟨hlo, hhi⟩ := unzigzag_bounds (k := 63) z.isLt
  rw [zze64_eq, zzd64_eq, BitVec.toInt_ofInt_eq_self (by decide) hlo hhi, zigzag_unzigzag, BitVec.ofInt_natCast,
    BitVec.ofNat_toNat, BitVec.setWidth_eq]

theorem zzd32_zze32 (p : Word) : zzd32 (zze32 p) = p := by
  rw [zzd32_eq, zze32_toNat, unzigzag_zigzag, BitVec.ofInt_toInt]

theorem lo_zext (p : Word) : lo (zext p) = p := by
  rw [lo_eq_setWidth, zext, BitVec.setWidth_setWidth_of_le _ (by decide), BitVec.setWidth_eq]

end Sys2Proof.Machine
end

section
/-! PROOFS. What each command of 40_split64.md writes, from the functions of the whole value. -/

namespace Sys2Proof.Machine

open Sys2Proof.Claims

/-- Settles O27: the carry and the borrow join the two halves. -/
theorem addAndSubWrap : Obligations.AddAndSubWrap :=
  ⟨runsAs_of_row unusedButRdRs1Rs2 rfl rfl fun _ => ⟨rfl, rfl, rfl⟩,
    runsAs_of_row unusedButRdRs1Rs2 rfl rfl fun _ => ⟨rfl, rfl, rfl⟩,
    fun _ _ _ _ => ⟨exec_eq_wrote rfl (add64_eq _ _), exec_eq_wrote rfl (sub64_eq _ _)⟩⟩

/-- Settles O28: the half of x[rs2] is its value mod 2^32. -/
theorem mulKeepsTheLow64Bits : Obligations.MulKeepsTheLow64Bits :=
  ⟨runsAs_of_row unusedButRdRs1Rs2 rfl rfl fun _ => ⟨rfl, rfl, rfl⟩,
    fun _ _ _ _ => exec_eq_wrote rfl (mul64_eq _ _)⟩

theorem exec_div_of_lo_eq_zero {rd rs3 rs1 rs2 : Reg} {s : State} (h : lo s.x[rs2] = 0#32) :
    exec (.div rd rs3 rs1 rs2) s = .next { s with status := { s.status with fail := true }, cp := s.cp + 1#32 } :=
  if_pos h

theorem exec_div_of_lo_ne_zero {rd rs3 rs1 rs2 : Reg} {s : State} (h : lo s.x[rs2] ≠ 0#32) :
    exec (.div rd rs3 rs1 rs2) s =
      .next { s with
        x := (s.x.set rd (split (divQuotient s.x[rs1] (lo s.x[rs2])))).set rs3
          (zext (BitVec.ofNat 32 (divRemainder s.x[rs1] (lo s.x[rs2])))),
        status := { s.status with fail := false }, cp := s.cp + 1#32 } :=
  if_neg h

/-- Settles O29: by whether the divisor is zero. -/
theorem divWritesQuotientThenRemainder : Obligations.DivWritesQuotientThenRemainder := by
  refine ⟨runsAs_of_row unusedImm8 rfl rfl fun _ => ⟨rfl, rfl, rfl⟩,
    fun rd rs3 rs1 rs2 s => ⟨fun h => ?_, fun h => ?_⟩⟩
  · exact exec_div_of_lo_eq_zero ((lo_eq_zero_iff _).2 h)
  · rw [exec_div_of_lo_ne_zero (mt (lo_eq_zero_iff _).1 h), split_divQuotient, zext_divRemainder _ _ h]

/-- Settles O30: the bit that crosses the halves is the one that the shift of the whole value moves. -/
theorem shiftsByOneBit : Obligations.ShiftsByOneBit :=
  ⟨runsAs_of_row unusedButRdRs1 rfl rfl fun _ => ⟨rfl, rfl, rfl⟩,
    runsAs_of_row unusedButRdRs1 rfl rfl fun _ => ⟨rfl, rfl, rfl⟩,
    fun _ _ _ => ⟨exec_eq_wrote rfl (shl64_eq _), exec_eq_wrote rfl (shr64_eq _)⟩⟩

/-- Settles O31: hi decides before lo. -/
theorem comparesAreThreeWay : Obligations.ComparesAreThreeWay :=
  ⟨runsAs_of_row unusedButRdRs1Rs2 rfl rfl fun _ => ⟨rfl, rfl, rfl⟩,
    runsAs_of_row unusedButRdRs1Rs2 rfl rfl fun _ => ⟨rfl, rfl, rfl⟩,
    fun _ _ _ _ => ⟨exec_eq_wrote rfl (cmpu64_eq _ _), exec_eq_wrote rfl (cmps64_eq _ _)⟩⟩

/-- Settles O32: by both halves, by the top bit of hi and by the bottom bit of lo. -/
theorem zeroMsbAndLsbTests : Obligations.ZeroMsbAndLsbTests :=
  ⟨runsAs_of_row unusedButRdRs1 rfl rfl fun _ => ⟨rfl, rfl, rfl⟩,
    runsAs_of_row unusedButRdRs1 rfl rfl fun _ => ⟨rfl, rfl, rfl⟩,
    runsAs_of_row unusedButRdRs1 rfl rfl fun _ => ⟨rfl, rfl, rfl⟩,
    fun _ _ _ => ⟨exec_eq_wrote rfl (bit_isZero _), exec_eq_wrote rfl (bit_msb _), exec_eq_wrote rfl (bit_lsb _)⟩⟩

/-- Settles O33: both are a shift by one bit, complemented under the mask. -/
theorem zigzag64Values : Obligations.Zigzag64Values :=
  ⟨runsAs_of_row unusedButRdRs1 rfl rfl fun _ => ⟨rfl, rfl, rfl⟩,
    runsAs_of_row unusedButRdRs1 rfl rfl fun _ => ⟨rfl, rfl, rfl⟩,
    fun _ _ _ => ⟨exec_eq_wrote rfl (zze64_eq _), exec_eq_wrote rfl (zzd64_eq _)⟩⟩

/-- Settles O34: the 32-bit results fit, the encode's as unsigned and the decode's as signed. -/
theorem zigzag32Values : Obligations.Zigzag32Values :=
  ⟨runsAs_of_row unusedButRdRs1 rfl rfl fun _ => ⟨rfl, rfl, rfl⟩,
    runsAs_of_row unusedButRdRs1 rfl rfl fun _ => ⟨rfl, rfl, rfl⟩,
    fun _ rs1 s =>
      ⟨exec_eq_wrote rfl (lo_eq_setWidth s.x[rs1] ▸ zext_zze32 _),
        exec_eq_wrote rfl (lo_toNat s.x[rs1] ▸ sext_zzd32 _)⟩⟩

/-- Settles O35: the second command reads what the first one wrote. -/
theorem zigzagDecodeUndoesEncode : Obligations.ZigzagDecodeUndoesEncode := by
  intro r a b s
  refine ⟨⟨_, _, rfl, rfl, ?_⟩, ⟨_, _, rfl, rfl, ?_⟩, ⟨_, _, rfl, rfl, ?_⟩⟩
  · simp [zzd64_zze64]
  · simp [zze64_zzd64]
  · simp [zzd32_zze32, lo_zext, ← lo_eq_setWidth, sext]

/-- Settles O36: the half that is kept is the quotient or the remainder by 2^32. -/
theorem movesAndHalfLoads : Obligations.MovesAndHalfLoads := by
  refine ⟨runsAs_of_row unusedButRdRs1 rfl rfl fun _ => ⟨rfl, rfl, rfl⟩,
    runsAsTwoWords_of_row rfl fun _ _ => ⟨rfl, rfl, rfl⟩,
    runsAsTwoWords_of_row rfl fun _ _ => ⟨rfl, rfl, rfl⟩,
    fun rd rs1 imm s => ⟨exec_eq_wrote rfl rfl, ?_, ?_⟩⟩
  · rw [← hi_toNat, ← join_eq_ofNat]
    rfl
  · rw [← lo_toNat, ← join_eq_ofNat]
    rfl

end Sys2Proof.Machine
end

section
/-! PROOFS. The byte format of a varint (41_varint.md R132): its length and each of its bytes. -/

namespace Sys2Proof.Machine

open Sys2Proof.Claims

variable {k v : Nat}

theorem varintGroups_length_pos (k v : Nat) : 1 ≤ (varintGroups (k + 1) v).length :=
  List.length_pos_iff.2 (varintGroups_ne_nil k v)

/-- No more bytes than groups are allowed. -/
theorem varintGroups_length_le (k v : Nat) : (varintGroups k v).length ≤ k := by
  induction k generalizing v with
  | zero => rfl
  | succ k ih =>
    rcases Nat.lt_or_ge v 128 with h | h
    · simp [varintGroups_last h]
    · simpa [varintGroups_more h] using ih (v / 128)

/-- The bytes hold every digit of the value, if as many groups are allowed as it has digits. -/
theorem lt_pow_varintGroups_length (hv : v < 128 ^ k) : v < 128 ^ (varintGroups k v).length := by
  induction k generalizing v with
  | zero => exact hv
  | succ k ih =>
    rcases Nat.lt_or_ge v 128 with h | h
    · simpa [varintGroups_last h] using h
    · rw [varintGroups_more h, List.length_cons, Nat.pow_succ, ← Nat.div_lt_iff_lt_mul (by decide)]
      exact ih ((Nat.div_lt_iff_lt_mul (by decide)).2 hv)

/-- There is no shorter form: m + 1 digits take at most m + 1 bytes. -/
theorem varintGroups_length_le_of_lt_pow {m : Nat} (hv : v < 128 ^ (m + 1)) : (varintGroups k v).length ≤ m + 1 := by
  induction k generalizing v m with
  | zero => exact Nat.zero_le _
  | succ k ih =>
    rcases Nat.lt_or_ge v 128 with h | h
    · simp [varintGroups_last h]
    · cases m with
      | zero => omega
      | succ m =>
        rw [varintGroups_more h, List.length_cons]
        exact Nat.succ_le_succ (ih ((Nat.div_lt_iff_lt_mul (by decide)).2 hv))

/-- A digit with the continuation bit, as a sum. -/
theorem digit_or_continuation (v : Nat) : BitVec.ofNat 8 (v % 128) ||| 0x80#8 = BitVec.ofNat 8 (v % 128 + 128) := by
  rw [BitVec.or_comm, show 0x80#8 = BitVec.ofNat 8 (1 <<< 7) from rfl, ← BitVec.ofNat_or,
    ← Nat.shiftLeft_add_eq_or_of_lt (Nat.mod_lt v (by decide : 0 < 2 ^ 7)), Nat.add_comm]
  rfl

/-- Byte j is digit j, with the continuation bit on all but the last. -/
theorem varintGroups_getElem? (hv : v < 128 ^ k) {j : Nat} (hj : j < (varintGroups k v).length) :
    (varintGroups k v)[j]? =
      some (BitVec.ofNat 8 (v / 128 ^ j % 128 + if j + 1 < (varintGroups k v).length then 128 else 0)) := by
  induction k generalizing v j with
  | zero => exact absurd hj (Nat.not_lt_zero j)
  | succ k ih =>
    rcases Nat.lt_or_ge v 128 with h | h
    · rw [varintGroups_last h] at hj ⊢
      obtain rfl : j = 0 := Nat.lt_one_iff.1 hj
      simp [Nat.mod_eq_of_lt h]
    · have hrest : v / 128 < 128 ^ k := (Nat.div_lt_iff_lt_mul (by decide)).2 hv
      rw [varintGroups_more h, List.length_cons] at hj ⊢
      cases j with
      | zero =>
        have hpos : 1 ≤ (varintGroups k (v / 128)).length := by
          cases k with
          | zero => omega
          | succ k => exact varintGroups_length_pos k _
        rw [if_pos (by omega), Nat.pow_zero, Nat.div_one, ← digit_or_continuation]
        rfl
      | succ j =>
        rw [List.getElem?_cons_succ, ih hrest (by omega), Nat.div_div_eq_div_mul, ← Nat.pow_succ']
        simp only [Nat.add_lt_add_iff_right]

/-- Settles O48: a value below 2^64 has at most ten digits, so the ten groups hold it. -/
theorem varintBytesAreTheShortestForm : Obligations.VarintBytesAreTheShortestForm := by
  intro v hv
  have h128 (n : Nat) : 2 ^ (7 * n) = 128 ^ n := Nat.pow_mul 2 7 n
  have hten : v < 128 ^ 10 := by omega
  refine ⟨varintGroups_length_pos 9 v, varintGroups_length_le 10 v, ?_, fun k hk hvk => ?_,
    fun k hk => varintGroups_getElem? hten hk⟩
  · rw [h128]
    exact lt_pow_varintGroups_length hten
  · obtain ⟨m, rfl⟩ := Nat.exists_eq_add_of_le' hk
    rw [h128] at hvk
    exact varintGroups_length_le_of_lt_pow hvk

end Sys2Proof.Machine
end

section
/-! PROOFS. The two scans (41_varint.md R133, R134) over any bytes: what they answer, by the first byte that ends the
varint or breaks a condition. -/

namespace Sys2Proof.Machine

open Sys2Proof.Claims

variable {get : Nat → Except DecodeError Byte} {b : Nat → Byte} {c : Byte} {x : Word} {e : DecodeError} {i k : Nat}

/-! ## Digits -/

/-- The first i bytes are those of b, and all have the continuation bit. -/
def Continues (get : Nat → Except DecodeError Byte) (b : Nat → Byte) (i : Nat) : Prop :=
  ∀ j < i, get j = .ok (b j) ∧ 0x80 ≤ (b j).toNat

theorem Continues.of_succ (h : Continues get b (i + 1)) : Continues get b i := fun j hj => h j (Nat.lt_succ_of_lt hj)

theorem groups_succ (b : Nat → Byte) (i : Nat) :
    groups b (i + 1) = groups b i + (b i).toNat % 128 * 128 ^ i := rfl

theorem groups_lt (b : Nat → Byte) (i : Nat) : groups b i < 128 ^ i := by
  induction i with
  | zero => exact Nat.one_pos
  | succ i ih =>
    have hd : (b i).toNat % 128 * 128 ^ i ≤ 127 * 128 ^ i := Nat.mul_le_mul_right _ (by omega)
    rw [groups_succ, Nat.pow_succ]
    omega

/-- The digits read so far lie below the next one. -/
theorem toNat_ofNat_groups_lt (n : Nat) (b : Nat → Byte) (i : Nat) :
    (BitVec.ofNat n (groups b i)).toNat < 2 ^ (7 * i) := by
  rw [Nat.pow_mul, BitVec.toNat_ofNat]
  exact (Nat.mod_le _ _).trans_lt (groups_lt b i)

theorem toNat_and_digit (c : Byte) : (c &&& 0x7F#8).toNat = c.toNat % 128 := toNat_and_mask c 7 (by decide)

/-- The digit of byte i joins those before it. -/
theorem or_groups {n : Nat} (hn : 8 ≤ n) :
    BitVec.ofNat n (groups b i) ||| (b i &&& 0x7F#8).setWidth n <<< (7 * i) = BitVec.ofNat n (groups b (i + 1)) := by
  rw [or_shiftLeft_eq_ofNat (toNat_ofNat_groups_lt n b i) hn, toNat_and_digit, groups_succ, Nat.pow_mul]
  apply BitVec.eq_of_toNat_eq
  simp only [BitVec.toNat_ofNat, Nat.mod_add_mod, Nat.reducePow]

/-! ## The 64-bit scan (R134) -/

/-- The halves after the digit of byte i. -/
theorem join_scanDigit_groups (hi : i ≤ 9) {l h : Word} (hlh : join l h = BitVec.ofNat 64 (groups b i)) :
    join (scanDigit i (b i &&& 0x7F#8) l h).1 (scanDigit i (b i &&& 0x7F#8) l h).2 =
      BitVec.ofNat 64 (groups b (i + 1)) := by
  have hd : (b i &&& 0x7F#8).toNat < 128 := toNat_and_digit (b i) ▸ Nat.mod_lt _ (by decide)
  rw [join_scanDigit hi hd, hlh, or_groups (by decide)]

/-- After i bytes that continue, the halves hold their digits. -/
theorem varint64Scan_of_continues (h : Continues get b i) (hk : i + k = 10) :
    ∃ l r, join l r = BitVec.ofNat 64 (groups b i) ∧ varint64Scan get = scanWide get k i l r := by
  induction i generalizing k with
  | zero =>
    obtain rfl : k = 10 := by omega
    exact ⟨0#32, 0#32, (by decide : join 0#32 0#32 = 0#64), rfl⟩
  | succ i ih =>
    obtain ⟨l, r, hlr, hscan⟩ := ih h.of_succ (k := k + 1) (by omega)
    obtain ⟨hg, hc⟩ := h i (Nat.lt_succ_self i)
    exact ⟨_, _, join_scanDigit_groups (by omega) hlr, hscan.trans (scanWide_more hg hc)⟩

theorem varint64Scan_last (h : Continues get b i) (hi : i ≤ 9) (hg : get i = .ok (b i)) (hl : (b i).toNat < 0x80) :
    varint64Scan get = .ok (BitVec.ofNat 64 (groups b (i + 1)), i + 1) := by
  obtain ⟨l, r, hlr, hscan⟩ := varint64Scan_of_continues h (k := 9 - i + 1) (by omega)
  rw [hscan, scanWide_last hg hl, join_scanDigit_groups hi hlr]

theorem varint64Scan_long (h : Continues get b 10) : varint64Scan get = .error .varintLong := by
  obtain ⟨l, r, -, hscan⟩ := varint64Scan_of_continues h (k := 0) rfl
  exact hscan

theorem varint64Scan_stops (h : Continues get b i) (hi : i ≤ 9) (hg : get i = .error e) :
    varint64Scan get = .error e := by
  obtain ⟨l, r, -, hscan⟩ := varint64Scan_of_continues h (k := 9 - i + 1) (by omega)
  rw [hscan, scanWide, hg]

/-! ## The first four bytes of the 32-bit scan (R133) -/

/-- After i bytes that continue, the pattern holds their digits. -/
theorem varint32Scan_of_continues (h : Continues get b i) (hk : i + k = 4) :
    varint32Scan get = scanHead get k i (BitVec.ofNat 32 (groups b i)) := by
  induction i generalizing k with
  | zero =>
    obtain rfl : k = 4 := by omega
    rfl
  | succ i ih =>
    obtain ⟨hg, hc⟩ := h i (Nat.lt_succ_self i)
    rw [ih h.of_succ (k := k + 1) (by omega), scanHead_more hg hc, or_groups (by decide)]

theorem varint32Scan_last (h : Continues get b i) (hi : i ≤ 3) (hg : get i = .ok (b i)) (hl : (b i).toNat < 0x80) :
    varint32Scan get = .ok (BitVec.ofNat 32 (groups b (i + 1)), i + 1) := by
  rw [varint32Scan_of_continues h (k := 3 - i + 1) (by omega), scanHead_last hg hl, or_groups (by decide)]

theorem varint32Scan_eq_scanFifth (h : Continues get b 4) :
    varint32Scan get = scanFifth get (BitVec.ofNat 32 (groups b 4)) := varint32Scan_of_continues h (k := 0) rfl

theorem varint32Scan_stops (h : Continues get b i) (hi : i ≤ 4) (hg : get i = .error e) :
    varint32Scan get = .error e := by
  rcases Nat.lt_or_eq_of_le hi with hi | rfl
  · rw [varint32Scan_of_continues h (k := 3 - i + 1) (by omega), scanHead, hg]
  · rw [varint32Scan_eq_scanFifth h, scanFifth, hg]

/-! ## The fifth byte -/

/-- The high four bits of a byte (R133 tests them under the mask 0xF0). -/
theorem toNat_and_highNibble (c : Byte) : (c &&& 0xF0#8).toNat = c.toNat / 16 * 16 := by
  have h : c &&& 0xF0#8 = c >>> 4 <<< 4 := (BitVec.shiftLeft_ushiftRight (x := c) (n := 4)).symm
  rw [h, BitVec.toNat_shiftLeft, BitVec.toNat_ushiftRight, Nat.shiftLeft_eq, Nat.shiftRight_eq_div_pow]
  omega

theorem highNibble_eq_zero_iff (c : Byte) : c &&& 0xF0#8 = 0x00#8 ↔ c.toNat < 0x10 := by
  rw [← BitVec.toNat_inj, toNat_and_highNibble, BitVec.toNat_ofNat]
  omega

theorem highNibble_eq_ones_iff (c : Byte) : c &&& 0xF0#8 = 0xF0#8 ↔ 0xF0 ≤ c.toNat := by
  rw [← BitVec.toNat_inj, toNat_and_highNibble, BitVec.toNat_ofNat]
  omega

/-- The fifth byte gives bits 31:28; what it has above them falls out of 32 bits. -/
theorem or_fifth (b : Nat → Byte) :
    BitVec.ofNat 32 (groups b 4) ||| (b 4 &&& 0x0F#8).setWidth 32 <<< 28 = BitVec.ofNat 32 (groups b 5) := by
  have hd : (b 4 &&& 0x0F#8).toNat = (b 4).toNat % 16 := toNat_and_mask (b 4) 4 (by decide)
  have hlt := groups_lt b 4
  rw [or_shiftLeft_eq_ofNat (toNat_ofNat_groups_lt 32 b 4) (by decide), hd, groups_succ b 4]
  apply BitVec.eq_of_toNat_eq
  simp only [BitVec.toNat_ofNat]
  omega

theorem scanFifth_last (hg : get 4 = .ok c) (hc : c.toNat < 0x10) :
    scanFifth get x = .ok (x ||| (c &&& 0x0F#8).setWidth 32 <<< 28, 5) := by
  simp only [scanFifth, hg, if_pos (show c.toNat < 0x80 by omega), if_pos ((highNibble_eq_zero_iff c).2 hc)]

theorem scanFifth_bad (hg : get 4 = .ok c) (hlo : 0x10 ≤ c.toNat) (hhi : c.toNat < 0xF0) :
    scanFifth get x = .error .varint32Bad := by
  have h0 : ¬c &&& 0xF0#8 = 0x00#8 := mt (highNibble_eq_zero_iff c).1 (by omega)
  have h1 : ¬c &&& 0xF0#8 = 0xF0#8 := mt (highNibble_eq_ones_iff c).1 (by omega)
  simp only [scanFifth, hg, if_neg h0, if_neg h1, ite_self]

section
variable (hg : get 4 = .ok c) (hc : 0xF0 ≤ c.toNat)
include hg hc

/-- The sign-extension form, broken by one of bytes 6 to 9. -/
theorem scanFifth_signBytes_error (hs : scanSignBytes get 4 5 = .error e) : scanFifth get x = .error e := by
  simp only [scanFifth, hg, if_neg (show ¬c.toNat < 0x80 by omega), if_pos ((highNibble_eq_ones_iff c).2 hc), hs]

/-- The sign-extension form, up to its last byte. -/
theorem scanFifth_signBytes_ok (hs : scanSignBytes get 4 5 = .ok ()) :
    scanFifth get x = scanSignLast get (x ||| (c &&& 0x0F#8).setWidth 32 <<< 28) := by
  simp only [scanFifth, hg, if_neg (show ¬c.toNat < 0x80 by omega), if_pos ((highNibble_eq_ones_iff c).2 hc), hs]

end

/-! ## The sign-extension form after its fifth byte -/

/-- Bytes that are 0xFF are passed. -/
theorem scanSignBytes_skip {j : Nat} (h : ∀ m, i ≤ m → m < j → get m = .ok 0xFF#8) (hij : i ≤ j) :
    scanSignBytes get (j - i + k) i = scanSignBytes get k j := by
  induction hij using Nat.decreasingInduction with
  | self => rw [Nat.sub_self, Nat.zero_add]
  | of_succ i hij ih =>
    rw [show j - i + k = j - (i + 1) + k + 1 by omega, scanSignBytes, h i (Nat.le_refl i) hij]
    exact ih fun m hm => h m (by omega)

/-- The first of bytes 6 to 9 that is not 0xFF. -/
theorem scanSignBytes_bad {j : Nat} (h5 : 5 ≤ j) (h8 : j ≤ 8) (h : ∀ m, 5 ≤ m → m < j → get m = .ok 0xFF#8)
    (hg : get j = .ok c) (hc : c ≠ 0xFF#8) : scanSignBytes get 4 5 = .error .varint32Bad := by
  rw [show 4 = j - 5 + (8 - j + 1) by omega, scanSignBytes_skip h h5, scanSignBytes, hg]
  exact if_neg hc

theorem scanSignBytes_stops {j : Nat} (h5 : 5 ≤ j) (h8 : j ≤ 8) (h : ∀ m, 5 ≤ m → m < j → get m = .ok 0xFF#8)
    (hg : get j = .error e) : scanSignBytes get 4 5 = .error e := by
  rw [show 4 = j - 5 + (8 - j + 1) by omega, scanSignBytes_skip h h5, scanSignBytes, hg]

theorem scanSignBytes_all (h : ∀ m, 5 ≤ m → m < 9 → get m = .ok 0xFF#8) : scanSignBytes get 4 5 = .ok () :=
  scanSignBytes_skip (k := 0) h (by decide)

theorem scanSignLast_stops (hg : get 9 = .error e) : scanSignLast get x = .error e := by
  rw [scanSignLast, hg]

theorem scanSignLast_long (hg : get 9 = .ok c) (hc : 0x80 ≤ c.toNat) : scanSignLast get x = .error .varintLong := by
  simp only [scanSignLast, hg, if_pos hc]

theorem scanSignLast_one (hg : get 9 = .ok 0x01#8) : scanSignLast get x = .ok (x, 10) := by
  rw [scanSignLast, hg]
  rfl

theorem scanSignLast_bad (hg : get 9 = .ok c) (hc : c.toNat < 0x80) (h1 : c ≠ 0x01#8) :
    scanSignLast get x = .error .varint32Bad := by
  simp only [scanSignLast, hg, if_neg (Nat.not_le.2 hc), if_neg h1]

/-! ## The bytes at POS -/

section
variable (s : State) {avail : Nat} (hb : ∀ k, b k = s.byte (s.pos.toNat + k))
  (hend : s.endAddr.toNat = s.pos.toNat + avail)
include hend

theorem State.decByte_avail : s.decByte avail = .error .pastEnd := s.decByte_past avail (by omega)

include hb

theorem State.decByte_of_lt_avail (hk : k < avail) : s.decByte k = .ok (b k) := by
  rw [hb]
  exact s.decByte_inside k (by omega)

theorem State.continues (hi : i ≤ avail) (hc : ∀ k < i, 0x80 ≤ (b k).toNat) : Continues s.decByte b i :=
  fun j hj => ⟨s.decByte_of_lt_avail hb hend (by omega), hc j hj⟩

/-- Bytes 0xFF from the sixth on. -/
theorem State.decByte_signBytes {j : Nat} (hj : j ≤ avail) (hff : ∀ k, 5 ≤ k → k < j → b k = 0xFF#8) :
    ∀ m, 5 ≤ m → m < j → s.decByte m = .ok 0xFF#8 :=
  fun m h5 hm => hff m h5 hm ▸ s.decByte_of_lt_avail hb hend (by omega)

end

/-- Settles O50: by how many bytes continue. -/
theorem varint64ScanByBytes : Obligations.Varint64ScanByBytes := by
  intro s b avail hb hend
  refine ⟨fun n h1 h10 hn hc hl => ?_, fun h10 hc => ?_, fun h9 hc => ?_⟩
  · obtain ⟨i, rfl⟩ := Nat.exists_eq_add_of_le' h1
    exact varint64Scan_last (s.continues hb hend (by omega) fun k hk => hc k (by omega)) (by omega)
      (s.decByte_of_lt_avail hb hend (by omega)) hl
  · exact varint64Scan_long (s.continues hb hend h10 hc)
  · exact varint64Scan_stops (s.continues hb hend (Nat.le_refl _) hc) h9 (s.decByte_avail hend)

/-- Settles O49: by how many of the first four bytes continue, then by the range of the fifth, then by the first byte after
it that is not that of the sign-extension form. -/
theorem varint32ScanByBytes : Obligations.Varint32ScanByBytes := by
  intro s b avail hb hend
  refine ⟨fun n h1 h4 hn hc hl => ?_, fun h4 hc => ?_, fun h5 hc => ?_⟩
  · obtain ⟨i, rfl⟩ := Nat.exists_eq_add_of_le' h1
    exact varint32Scan_last (s.continues hb hend (by omega) fun k hk => hc k (by omega)) (by omega)
      (s.decByte_of_lt_avail hb hend (by omega)) hl
  · exact varint32Scan_stops (s.continues hb hend (Nat.le_refl _) hc) h4 (s.decByte_avail hend)
  · have hget {k : Nat} (hk : k < avail) : s.decByte k = .ok (b k) := s.decByte_of_lt_avail hb hend hk
    have hff {j : Nat} := s.decByte_signBytes hb hend (j := j)
    have h4 := hget (k := 4) (by omega)
    rw [varint32Scan_eq_scanFifth (s.continues hb hend (by omega) hc)]
    refine ⟨fun hlast => ?_, scanFifth_bad h4, fun hlong => ⟨fun j h5j h8 hj hsign hbad => ?_, fun h9 hsign => ?_,
      fun h10 hsign => ?_⟩⟩
    · rw [scanFifth_last h4 hlast, or_fifth]
    · exact scanFifth_signBytes_error h4 hlong (scanSignBytes_bad h5j h8 (hff (by omega) hsign) (hget hj) hbad)
    · have hpast := s.decByte_avail hend
      rcases Nat.lt_or_eq_of_le h9 with h9 | rfl
      · exact scanFifth_signBytes_error h4 hlong
          (scanSignBytes_stops h5 (by omega) (hff (Nat.le_refl _) hsign) hpast)
      · rw [scanFifth_signBytes_ok h4 hlong (scanSignBytes_all (hff (Nat.le_refl _) hsign))]
        exact scanSignLast_stops hpast
    · have hsigned := scanSignBytes_all (hff (by omega) fun k h5 h9 => hsign k h5 (Nat.le_of_lt_succ h9))
      have hlast := hget (k := 9) (by omega)
      rw [scanFifth_signBytes_ok h4 hlong hsigned, or_fifth]
      exact ⟨scanSignLast_long hlast, fun h1 => scanSignLast_one (h1 ▸ hlast), scanSignLast_bad hlast⟩

end Sys2Proof.Machine
end

section
/-! PROOFS. The commands of 41_varint.md (R135 to R144), and what no decoder read depends on (R130). -/

namespace Sys2Proof.Machine

open Sys2Proof.Claims

variable (s : State) {e : DecodeError} {n : Nat} (rd : Reg)

/-! ## Reads (R135 to R139) -/

theorem State.readVarint32_of_ok {f : Word → Split64} {x : Word} {v : Split64}
    (h : varint32Scan s.decByte = .ok (x, n)) (hv : f x = v) : s.readVarint32 rd f = readDone s rd v n := by
  rw [State.readVarint32, h, ← hv]
  rfl

theorem State.readVarint32_of_error {f : Word → Split64} (h : varint32Scan s.decByte = .error e) :
    s.readVarint32 rd f = decodeError e.code s := by
  rw [State.readVarint32, h]
  rfl

theorem State.readVarint64_of_ok {f : Split64 → Split64} {x v : Split64}
    (h : varint64Scan s.decByte = .ok (x, n)) (hv : f x = v) : s.readVarint64 rd f = readDone s rd v n := by
  rw [State.readVarint64, h, ← hv]
  rfl

theorem State.readVarint64_of_error {f : Split64 → Split64} (h : varint64Scan s.decByte = .error e) :
    s.readVarint64 rd f = decodeError e.code s := by
  rw [State.readVarint64, h]
  rfl

/-- Settles O51: each read ends as its scan does. -/
theorem varintReads : Obligations.VarintReads := by
  refine ⟨runsAs_of_row unusedButRd rfl rfl fun _ => ⟨rfl, rfl, rfl⟩,
    runsAs_of_row unusedButRd rfl rfl fun _ => ⟨rfl, rfl, rfl⟩,
    runsAs_of_row unusedButRd rfl rfl fun _ => ⟨rfl, rfl, rfl⟩,
    runsAs_of_row unusedButRd rfl rfl fun _ => ⟨rfl, rfl, rfl⟩,
    runsAs_of_row unusedButRd rfl rfl fun _ => ⟨rfl, rfl, rfl⟩,
    fun rd s => ⟨fun x n h => ?_, fun v n h => ?_, fun e h => ⟨e.code, ?_, ?_⟩, fun e h => ⟨e.code, ?_, ?_⟩⟩⟩
  · exact ⟨congrArg _ (s.readVarint32_of_ok rd h (zext_eq_ofNat x)), congrArg _ (s.readVarint32_of_ok rd h rfl),
      congrArg _ (s.readVarint32_of_ok rd h (sext_zzd32 x))⟩
  · exact ⟨congrArg _ (s.readVarint64_of_ok rd h rfl), congrArg _ (s.readVarint64_of_ok rd h (zzd64_eq v))⟩
  · obtain rfl | rfl | rfl := s.varint32_error h <;> decide
  · have herr {f : Word → Split64} := s.readVarint32_of_error rd (f := f) h
    exact ⟨congrArg _ herr, congrArg _ herr, congrArg _ herr⟩
  · obtain rfl | rfl := s.varint64_error h <;> decide
  · have herr {f : Split64 → Split64} := s.readVarint64_of_error rd (f := f) h
    exact ⟨congrArg _ herr, congrArg _ herr⟩

/-! ## Writes (R140 to R144) -/

/-- All but rs1: bits 23:20 and 15:0. -/
def unusedButRs1 : UnusedFields := ⟨true, false, true, true, true⟩

/-- Settles O52: each write is its check, ENC_OVF and its bytes. -/
theorem varintWrites : Obligations.VarintWrites :=
  ⟨runsAs_of_row unusedButRs1 rfl rfl fun _ => ⟨rfl, rfl, rfl⟩,
    runsAs_of_row unusedButRs1 rfl rfl fun _ => ⟨rfl, rfl, rfl⟩,
    runsAs_of_row unusedButRs1 rfl rfl fun _ => ⟨rfl, rfl, rfl⟩,
    runsAs_of_row unusedButRs1 rfl rfl fun _ => ⟨rfl, rfl, rfl⟩,
    runsAs_of_row unusedButRs1 rfl rfl fun _ => ⟨rfl, rfl, rfl⟩,
    fun r s => ⟨exec_wvu32_eq s r, exec_wvs32_eq s r, exec_wvz32_eq s r, exec_wv64_eq s r, exec_wvz64_eq s r⟩⟩

/-! ## The error state and the current field (R130 items 4 and 5) -/

/-- The registers, POS, FAIL and CP after a read do not depend on the STATUS and TAG before it. -/
theorem State.finishRead_withErrorState (st : Status) (g : Word) (r : Except DecodeError (Split64 × Nat)) :
    (({ s with status := st, tag := g } : State).finishRead rd r).x = (s.finishRead rd r).x ∧
      (({ s with status := st, tag := g } : State).finishRead rd r).pos = (s.finishRead rd r).pos ∧
      (({ s with status := st, tag := g } : State).finishRead rd r).status.fail = (s.finishRead rd r).status.fail ∧
      (({ s with status := st, tag := g } : State).finishRead rd r).cp = (s.finishRead rd r).cp := by
  cases r <;> exact ⟨rfl, rfl, rfl, rfl⟩

/-- Settles O20: the bytes at POS, and so what is scanned, do not depend on STATUS or TAG. -/
theorem readsIgnoreErrorStateAndField : Obligations.ReadsIgnoreErrorStateAndField := by
  intro i s st g hi
  cases i
  case rvu32 rd | rvs32 rd | rvz32 rd | rv64 rd | rvz64 rd | rfu8 rd | rfs8 rd | rfu16 rd | rfs16 rd | rfu32 rd
    | rfs32 rd | rf64 rd | rflt rd | rdbl rd => exact ⟨_, _, rfl, rfl, s.finishRead_withErrorState rd st g _⟩
  all_goals cases hi

end Sys2Proof.Machine
end

section
/-! PROOFS. The commands of 42_fixed.md (R161 to R174): the bytes at POS as one little-endian value, and how each fixed
read and write ends. -/

namespace Sys2Proof.Machine

open Sys2Proof.Claims

/-! ## Little-endian integers as bit strings (R58) -/

/-- The n bytes behind the first m are the high part of the integer. -/
theorem Memory.readLE_add (mem : Memory) (a m n : Nat) :
    mem.readLE a (m + n) = mem.readLE (a + m) n * 256 ^ m + mem.readLE a m := by
  induction m generalizing a with
  | zero => simp [Memory.readLE]
  | succ m ih =>
    rw [Nat.add_right_comm, Memory.readLE, ih, Memory.readLE, Nat.add_right_comm a, ← Nat.add_assoc a, Nat.pow_succ,
      ← Nat.mul_assoc]
    omega

theorem Memory.toNat_ofNat_readLE (mem : Memory) (a : Nat) {w n : Nat} (hw : w = 8 * n) :
    (BitVec.ofNat w (mem.readLE a n)).toNat = mem.readLE a n := by
  rw [BitVec.toNat_ofNat, hw, Nat.pow_mul, Nat.mod_eq_of_lt (mem.readLE_lt n a)]

/-- In bits, the integer of the bytes behind stands before that of the first ones. -/
theorem Memory.ofNat_readLE_add (mem : Memory) (a m n : Nat) :
    BitVec.ofNat (8 * n + 8 * m) (mem.readLE a (m + n)) =
      BitVec.ofNat (8 * n) (mem.readLE (a + m) n) ++ BitVec.ofNat (8 * m) (mem.readLE a m) := by
  apply BitVec.eq_of_toNat_eq
  rw [mem.toNat_ofNat_readLE a (by omega), BitVec.toNat_append, ← Nat.shiftLeft_add_eq_or_of_lt (BitVec.isLt _),
    Nat.shiftLeft_eq, mem.toNat_ofNat_readLE _ rfl, mem.toNat_ofNat_readLE _ rfl, Nat.pow_mul, mem.readLE_add]

theorem Memory.ofNat_readLE_one (mem : Memory) (a : Nat) : BitVec.ofNat 8 (mem.readLE a 1) = mem.read a :=
  (BitVec.ofNat_toNat 8 (mem.read a)).trans (BitVec.setWidth_eq _)

section
variable {s : State} {b : Nat → Byte} (hb : ∀ k, b k = s.byte (s.pos.toNat + k))
include hb

theorem State.ofNat_readLE_one : BitVec.ofNat 8 (s.mem.readLE s.pos.toNat 1) = b 0 :=
  (s.mem.ofNat_readLE_one _).trans (hb 0).symm

/-- One more byte at POS stands before the others. -/
theorem State.ofNat_readLE_succ {n : Nat} {x : BitVec (8 * n)}
    (hx : BitVec.ofNat (8 * n) (s.mem.readLE s.pos.toNat n) = x) :
    BitVec.ofNat (8 + 8 * n) (s.mem.readLE s.pos.toNat (n + 1)) = b n ++ x := by
  rw [hb, ← hx]
  exact (s.mem.ofNat_readLE_add s.pos.toNat n 1).trans (congrArg (· ++ _) (s.mem.ofNat_readLE_one _))

theorem State.ofNat_readLE_two : BitVec.ofNat 16 (s.mem.readLE s.pos.toNat 2) = b 1 ++ b 0 :=
  State.ofNat_readLE_succ hb (n := 1) (State.ofNat_readLE_one hb)

theorem State.ofNat_readLE_four :
    BitVec.ofNat 32 (s.mem.readLE s.pos.toNat 4) = b 3 ++ (b 2 ++ (b 1 ++ b 0)) :=
  State.ofNat_readLE_succ hb (n := 3) (State.ofNat_readLE_succ hb (n := 2) (State.ofNat_readLE_two hb))

/-- The low word first, two little-endian words are one little-endian value (R167). -/
theorem State.twoWords_eq :
    s.twoWords = b 7 ++ (b 6 ++ (b 5 ++ (b 4 ++ (b 3 ++ (b 2 ++ (b 1 ++ b 0)))))) :=
  (s.mem.ofNat_readLE_add s.pos.toNat 4 4).symm.trans
    (State.ofNat_readLE_succ hb (n := 7) (State.ofNat_readLE_succ hb (n := 6)
      (State.ofNat_readLE_succ hb (n := 5) (State.ofNat_readLE_succ hb (n := 4) (State.ofNat_readLE_four hb)))))

end

/-! ## Reads (R161 to R167) -/

section
variable (s : State) (rd : Reg) {n : Nat} {f : Nat → Split64}

theorem State.readFixed_inside {v : Split64} (h : s.pos.toNat + n ≤ s.endAddr.toNat)
    (hv : f (s.mem.readLE s.pos.toNat n) = v) : s.readFixed rd n f = readDone s rd v n := by
  rw [State.readFixed, s.fixRead_inside n h, ← hv]
  rfl

theorem State.readFixed_past (h : s.endAddr.toNat < s.pos.toNat + n) : s.readFixed rd n f = decodeError 1#4 s := by
  rw [State.readFixed, s.fixRead_past n h]
  rfl

variable {s rd} {zr sr : Instr} {w : Nat} (hz : exec zr s = .next (s.readFixed rd n fun k => zext (BitVec.ofNat w k)))
  (hs : exec sr s = .next (s.readFixed rd n fun k => sext (BitVec.ofNat w k)))
include hz hs

/-- The zero-extending and the sign-extending read of one width take the same bytes. -/
theorem extendingReads_inside {v : BitVec w} (h : s.pos.toNat + n ≤ s.endAddr.toNat)
    (hv : BitVec.ofNat w (s.mem.readLE s.pos.toNat n) = v) :
    exec zr s = .next (readDone s rd (v.setWidth 64) n) ∧ exec sr s = .next (readDone s rd (v.signExtend 64) n) :=
  ⟨hz.trans (congrArg _ (s.readFixed_inside rd h (congrArg zext hv))),
    hs.trans (congrArg _ (s.readFixed_inside rd h (congrArg sext hv)))⟩

theorem extendingReads_past (h : s.endAddr.toNat < s.pos.toNat + n) :
    exec zr s = .next (decodeError 1#4 s) ∧ exec sr s = .next (decodeError 1#4 s) :=
  ⟨hz.trans (congrArg _ (s.readFixed_past rd h)), hs.trans (congrArg _ (s.readFixed_past rd h))⟩

end

/-- Settles O53: by whether the bytes lie before END, for each width the two extensions together. -/
theorem fixedReads : Obligations.FixedReads :=
  ⟨runsAs_of_row unusedButRd rfl rfl fun _ => ⟨rfl, rfl, rfl⟩,
    runsAs_of_row unusedButRd rfl rfl fun _ => ⟨rfl, rfl, rfl⟩,
    runsAs_of_row unusedButRd rfl rfl fun _ => ⟨rfl, rfl, rfl⟩,
    runsAs_of_row unusedButRd rfl rfl fun _ => ⟨rfl, rfl, rfl⟩,
    runsAs_of_row unusedButRd rfl rfl fun _ => ⟨rfl, rfl, rfl⟩,
    runsAs_of_row unusedButRd rfl rfl fun _ => ⟨rfl, rfl, rfl⟩,
    fun _ _ _ hb =>
      ⟨fun h => extendingReads_inside rfl rfl h (State.ofNat_readLE_one hb),
        fun h => extendingReads_inside rfl rfl h (State.ofNat_readLE_two hb),
        fun h => extendingReads_inside rfl rfl h (State.ofNat_readLE_four hb),
        extendingReads_past rfl rfl, extendingReads_past rfl rfl, extendingReads_past rfl rfl⟩⟩

/-- Settles O54: both halves of the register are one little-endian value, read and written. -/
theorem fixed64IsOneLittleEndianValue : Obligations.Fixed64IsOneLittleEndianValue := by
  refine ⟨runsAs_of_row unusedButRd rfl rfl fun _ => ⟨rfl, rfl, rfl⟩,
    runsAs_of_row unusedButRs1 rfl rfl fun _ => ⟨rfl, rfl, rfl⟩,
    fun rd s b hb => ⟨?_, exec_wf64_eq s rd⟩⟩
  split
  next h => exact congrArg _ (s.readFixed_inside rd (f := fun _ => s.twoWords) h (State.twoWords_eq hb))
  next h => exact congrArg _ (s.readFixed_past rd (Nat.lt_of_not_le h))

/-! ## Writes (R168 to R173) -/

/-- Settles O55: each write is its check, ENC_OVF and its bytes. -/
theorem fixedWrites : Obligations.FixedWrites :=
  ⟨runsAs_of_row unusedButRs1 rfl rfl fun _ => ⟨rfl, rfl, rfl⟩,
    runsAs_of_row unusedButRs1 rfl rfl fun _ => ⟨rfl, rfl, rfl⟩,
    runsAs_of_row unusedButRs1 rfl rfl fun _ => ⟨rfl, rfl, rfl⟩,
    runsAs_of_row unusedButRs1 rfl rfl fun _ => ⟨rfl, rfl, rfl⟩,
    runsAs_of_row unusedButRs1 rfl rfl fun _ => ⟨rfl, rfl, rfl⟩,
    runsAs_of_row unusedButRs1 rfl rfl fun _ => ⟨rfl, rfl, rfl⟩,
    fun r s => ⟨exec_wfu8_eq s r, exec_wfs8_eq s r, exec_wfu16_eq s r, exec_wfs16_eq s r, exec_wfu32_eq s r,
      exec_wfs32_eq s r⟩⟩

end Sys2Proof.Machine
end

section
/-! PROOFS. A float pattern as its sign and the number m in the bits below it (43_float.md R180): the fields, the class and
the value of the pattern as functions of m. -/

namespace Sys2Proof.Machine

open Sys2Proof.Claims

variable {m : Nat}

/-! ## Signs -/

theorem toNat_ofBool_append {w : Nat} (s : Bool) (hm : m < 2 ^ w) :
    (BitVec.ofBool s ++ BitVec.ofNat w m).toNat = s.toNat * 2 ^ w + m := by
  rw [BitVec.toNat_append, ← Nat.shiftLeft_add_eq_or_of_lt (BitVec.isLt _), Nat.shiftLeft_eq, BitVec.toNat_ofBool,
    BitVec.toNat_ofNat, Nat.mod_eq_of_lt hm]

theorem exists_eq_ofBool_append {w : Nat} (x : BitVec (1 + w)) :
    ∃ s m, m < 2 ^ w ∧ x = BitVec.ofBool s ++ BitVec.ofNat w m := by
  have hx : x.toNat < 2 * 2 ^ w := x.isLt.trans_eq (Nat.pow_add 2 1 w)
  by_cases h : x.toNat < 2 ^ w
  · exact ⟨false, x.toNat, h, BitVec.eq_of_toNat_eq (by rw [toNat_ofBool_append _ h]; simp)⟩
  · have hm : x.toNat - 2 ^ w < 2 ^ w := by omega
    refine ⟨true, x.toNat - 2 ^ w, hm, BitVec.eq_of_toNat_eq ?_⟩
    rw [toNat_ofBool_append _ hm, Bool.toNat_true]
    omega

/-! ## binary32 -/

theorem exists_eq_signed32 (f : Word) : ∃ s m, m < 2 ^ 31 ∧ f = signed32 s m := exists_eq_ofBool_append (w := 31) f

@[simp] theorem msb_signed32 (s : Bool) (m : Nat) : (signed32 s m).msb = s := BitVec.msb_append.trans (by simp)

@[simp] theorem sign32_signed32 (s : Bool) (m : Nat) : sign32 (signed32 s m) = s :=
  (BitVec.msb_eq_getLsbD_last _).symm.trans (msb_signed32 s m)

theorem exp32_eq (f : Word) : exp32 f = f.toNat / 2 ^ 23 % 2 ^ 8 := by
  rw [exp32, BitVec.extractLsb'_toNat, Nat.shiftRight_eq_div_pow]

theorem frac32_eq (f : Word) : frac32 f = f.toNat % 2 ^ 23 := BitVec.extractLsb'_toNat ..

section
variable (s : Bool) (hm : m < 2 ^ 31)
include hm

theorem toNat_signed32 : (signed32 s m).toNat = s.toNat * 2 ^ 31 + m := toNat_ofBool_append s hm

theorem exp32_signed32 : exp32 (signed32 s m) = m / 2 ^ 23 := by
  rw [exp32_eq, toNat_signed32 s hm]
  omega

theorem frac32_signed32 : frac32 (signed32 s m) = m % 2 ^ 23 := by
  rw [frac32_eq, toNat_signed32 s hm]
  omega

theorem finite32_signed32 : Finite32 (signed32 s m) ↔ m < 0x7F800000 := by
  rw [Finite32, toNat_signed32 s hm]
  omega

theorem NaN32_signed32 : NaN32 (signed32 s m) ↔ 0x7F800000 < m := by
  rw [NaN32, toNat_signed32 s hm]
  omega

theorem toNat_signed32_mod : (signed32 s m).toNat % 2 ^ 31 = m := by
  rw [toNat_signed32 s hm]
  omega

end

/-! ## binary64 -/

theorem exists_eq_signed64 (d : Split64) : ∃ s m, m < 2 ^ 63 ∧ d = signed64 s m := exists_eq_ofBool_append (w := 63) d

@[simp] theorem msb_signed64 (s : Bool) (m : Nat) : (signed64 s m).msb = s := BitVec.msb_append.trans (by simp)

@[simp] theorem sign64_signed64 (s : Bool) (m : Nat) : sign64 (signed64 s m) = s :=
  (BitVec.msb_eq_getLsbD_last _).symm.trans (msb_signed64 s m)

theorem exp64_eq (d : Split64) : exp64 d = d.toNat / 2 ^ 52 % 2 ^ 11 := by
  rw [exp64, BitVec.extractLsb'_toNat, Nat.shiftRight_eq_div_pow]

theorem frac64_eq (d : Split64) : frac64 d = d.toNat % 2 ^ 52 := BitVec.extractLsb'_toNat ..

section
variable (s : Bool) (hm : m < 2 ^ 63)
include hm

theorem toNat_signed64 : (signed64 s m).toNat = s.toNat * 2 ^ 63 + m := toNat_ofBool_append s hm

theorem exp64_signed64 : exp64 (signed64 s m) = m / 2 ^ 52 := by
  rw [exp64_eq, toNat_signed64 s hm]
  omega

theorem frac64_signed64 : frac64 (signed64 s m) = m % 2 ^ 52 := by
  rw [frac64_eq, toNat_signed64 s hm]
  omega

theorem finite64_signed64 : Finite64 (signed64 s m) ↔ m < 0x7FF0000000000000 := by
  rw [Finite64, toNat_signed64 s hm]
  omega

theorem NaN64_signed64 : NaN64 (signed64 s m) ↔ 0x7FF0000000000000 < m := by
  rw [NaN64, toNat_signed64 s hm]
  omega

theorem toNat_signed64_mod : (signed64 s m).toNat % 2 ^ 63 = m := by
  rw [toNat_signed64 s hm]
  omega

end

/-! ## Values -/

/-- The value of the pattern m with p fraction bits, in units of its least denormal (R180). -/
def magnitude (p m : Nat) : Nat := if m / 2 ^ p = 0 then m % 2 ^ p else (2 ^ p + m % 2 ^ p) * 2 ^ (m / 2 ^ p - 1)

@[simp] theorem magnitude_zero (p : Nat) : magnitude p 0 = 0 := by simp [magnitude]

theorem magnitude_mul_add {p E F : Nat} (hF : F < 2 ^ p) :
    magnitude p (E * 2 ^ p + F) = if E = 0 then F else (2 ^ p + F) * 2 ^ (E - 1) := by
  rw [magnitude, Nat.mul_comm, Nat.mul_add_div (Nat.two_pow_pos p), Nat.mul_add_mod, Nat.div_eq_of_lt hF,
    Nat.mod_eq_of_lt hF, Nat.add_zero]

/-- A significand G in units of 2^e is the pattern e * 2^p + G, also for the G that carries into the exponent field. -/
theorem magnitude_eq_mul_two_pow {p e G : Nat} (hG : G ≤ 2 ^ (p + 1)) (he : e = 0 ∨ 2 ^ p ≤ G) :
    magnitude p (e * 2 ^ p + G) = G * 2 ^ e := by
  rw [Nat.pow_succ] at hG
  by_cases hsub : G < 2 ^ p
  · rw [magnitude_mul_add hsub]
    have he0 : e = 0 := by omega
    simp [he0]
  by_cases hcarry : G = 2 ^ p * 2
  · have hm : e * 2 ^ p + G = (e + 2) * 2 ^ p + 0 := by rw [hcarry, Nat.add_mul]; omega
    rw [hm, magnitude_mul_add (Nat.two_pow_pos p), hcarry]
    simp [Nat.pow_succ', Nat.mul_assoc]
  · have hm : e * 2 ^ p + G = (e + 1) * 2 ^ p + (G - 2 ^ p) := by rw [Nat.add_mul]; omega
    rw [hm, magnitude_mul_add (by omega), Nat.add_sub_cancel' (by omega)]
    simp

/-- Every pattern has a significand and an exponent. -/
theorem exists_eq_mul_two_pow_add (p m : Nat) :
    ∃ e G, m = e * 2 ^ p + G ∧ G < 2 ^ (p + 1) ∧ (e = 0 ∨ 2 ^ p ≤ G) := by
  have hdiv := Nat.div_add_mod' m (2 ^ p)
  have hmod := Nat.mod_lt m (Nat.two_pow_pos p)
  rw [Nat.pow_succ]
  rcases hE : m / 2 ^ p with _ | e
  · exact ⟨0, m % 2 ^ p, by rw [hE] at hdiv; omega, by omega, .inl rfl⟩
  · exact ⟨e, 2 ^ p + m % 2 ^ p, by rw [hE, Nat.add_mul] at hdiv; omega, by omega, .inr (Nat.le_add_right ..)⟩

theorem magnitude_lt_succ (p m : Nat) : magnitude p m < magnitude p (m + 1) := by
  obtain ⟨e, G, rfl, hG, he⟩ := exists_eq_mul_two_pow_add p m
  rw [magnitude_eq_mul_two_pow hG.le he, Nat.add_assoc, magnitude_eq_mul_two_pow hG (by omega)]
  exact Nat.mul_lt_mul_of_pos_right (Nat.lt_succ_self G) (Nat.two_pow_pos e)

theorem magnitude_strictMono (p : Nat) : StrictMono (magnitude p) := strictMono_nat_of_lt_succ (magnitude_lt_succ p)

/-- The least binary32 denormal 2^-149, in units of 2^-1074. -/
def quantum32 : Nat := 2 ^ 925

theorem two_pow_mul_quantum32 (c : Nat) : 2 ^ c * quantum32 = 2 ^ (c + 925) := by
  rw [Nat.pow_add 2 c 925, quantum32]

theorem two_pow_mul_two_pow_eq_mul_quantum32 {a b c : Nat} (h : a + b = c + 925) :
    2 ^ a * 2 ^ b = 2 ^ c * quantum32 := by
  rw [two_pow_mul_quantum32, ← Nat.pow_add, h]

theorem value_quantum32 (k : Nat) : ((k * quantum32 : Nat) : ℚ) * 2 ^ (-1074 : ℤ) = k * 2 ^ (-149 : ℤ) := by
  rw [quantum32, Nat.cast_mul, mul_assoc, Nat.cast_pow, Nat.cast_ofNat, ← zpow_natCast, ← zpow_add₀ two_ne_zero]
  norm_num

/-- The magnitude of the binary32 pattern m, in units of 2^-1074 (R180). -/
def mag32 (m : Nat) : Nat := magnitude 23 m * quantum32

theorem quantum32_pos : 0 < quantum32 := by
  unfold quantum32
  positivity

@[simp] theorem mag32_zero : mag32 0 = 0 := by rw [mag32, magnitude_zero, Nat.zero_mul]

theorem mag32_strictMono : StrictMono mag32 := (magnitude_strictMono 23).mul_const quantum32_pos

/-- z units of 2^-1074, with the sign s. -/
def signedUnits (s : Bool) (z : ℤ) : ℚ := (if s then -1 else 1) * (z * 2 ^ (-1074 : ℤ))

/-- The value that R180 gives a pattern with bias b and p fraction bits. -/
theorem value_eq_magnitude (p m : Nat) (b : ℤ) :
    (if m / 2 ^ p = 0 then ((m % 2 ^ p : Nat) : ℚ) * 2 ^ (1 - b - p : ℤ)
      else ((2 ^ p + m % 2 ^ p : Nat) : ℚ) * 2 ^ ((m / 2 ^ p : Nat) - b - p : ℤ)) =
      magnitude p m * 2 ^ (1 - b - p : ℤ) := by
  unfold magnitude
  split
  · rfl
  · have he : ((m / 2 ^ p : Nat) - b - p : ℤ) = ((m / 2 ^ p - 1 : Nat) : ℤ) + (1 - b - p) := by
      rw [Nat.cast_sub (Nat.one_le_iff_ne_zero.2 ‹_›)]
      ring
    rw [he, zpow_add₀ two_ne_zero, zpow_natCast, Nat.cast_mul, mul_assoc, Nat.cast_pow, Nat.cast_ofNat]

theorem value32_signed32 (s : Bool) (hm : m < 2 ^ 31) :
    value32 (signed32 s m) = signedUnits s (mag32 m) := by
  rw [value32, ← exp32_eq, ← frac32_eq, exp32_signed32 s hm, frac32_signed32 s hm, msb_signed32, signedUnits,
    Int.cast_natCast, mag32, value_quantum32]
  exact congrArg _ (value_eq_magnitude 23 m 127)

theorem value64_signed64 (s : Bool) (hm : m < 2 ^ 63) :
    value64 (signed64 s m) = signedUnits s (magnitude 52 m) := by
  rw [value64, ← exp64_eq, ← frac64_eq, exp64_signed64 s hm, frac64_signed64 s hm, msb_signed64, signedUnits,
    Int.cast_natCast]
  exact congrArg _ (value_eq_magnitude 52 m 1023)

theorem mag64_signed64 (s : Bool) (hm : m < 2 ^ 63) : mag64 (signed64 s m) = magnitude 52 m := by
  rw [mag64, exp64_signed64 s hm, frac64_signed64 s hm, magnitude]

/-! ## Distances -/

theorem signedUnits_not (s : Bool) (z : ℤ) : signedUnits (!s) z = signedUnits s (-z) := by
  cases s <;> simp [signedUnits]

theorem abs_signedUnits (s : Bool) (z : ℤ) : |signedUnits s z| = ((|z| : ℤ) : ℚ) * 2 ^ (-1074 : ℤ) := by
  have hpos : (0 : ℚ) < 2 ^ (-1074 : ℤ) := by positivity
  rw [signedUnits, abs_mul, abs_mul, abs_of_pos hpos, Int.cast_abs]
  cases s <;> simp

theorem abs_signedUnits_sub (s : Bool) (y z : ℤ) :
    |signedUnits s y - signedUnits s z| = ((|y - z| : ℤ) : ℚ) * 2 ^ (-1074 : ℤ) := by
  rw [← abs_signedUnits s, signedUnits, signedUnits, signedUnits, ← mul_sub, ← sub_mul, Int.cast_sub]

/-- Whatever its own sign, a binary32 value is an integer number of units with the sign s. -/
theorem exists_value32_eq_signedUnits (s t : Bool) (hm : m < 2 ^ 31) :
    ∃ z : ℤ, z.natAbs = mag32 m ∧ value32 (signed32 t m) = signedUnits s z := by
  rw [value32_signed32 t hm]
  rcases Bool.eq_or_eq_not t s with rfl | rfl
  · exact ⟨_, Int.natAbs_natCast _, rfl⟩
  · exact ⟨_, (Int.natAbs_neg _).trans (Int.natAbs_natCast _), signedUnits_not s _⟩

end Sys2Proof.Machine
end

section
/-! PROOFS. Widening (43_float.md R184) of the pattern with sign s and magnitude bits m, branch by branch, and its value. -/

namespace Sys2Proof.Machine

open Sys2Proof.Claims

variable {m : Nat}

/-! ## The branches -/

theorem isNaN32_iff (f : Word) : isNaN32 f = true ↔ NaN32 f := by
  rw [isNaN32, decide_eq_true_iff, exp32_eq, frac32_eq, NaN32]

theorem widen_of_NaN32 {f : Word} (h : NaN32 f) : widen f = 0x7FF8000000000000#64 := if_pos ((isNaN32_iff f).2 h)

theorem widen_infinity (s : Bool) : widen (signed32 s 0x7F800000) = signed64 s 0x7FF0000000000000 := by
  cases s <;> decide

theorem widen_finite (s : Bool) (hm : m < 0x7F800000) : widen (signed32 s m) =
    signed64 s (if m = 0 then 0
      else if m < 2 ^ 23 then (Nat.log2 m + 874) * 2 ^ 52 + (m - 2 ^ Nat.log2 m) * 2 ^ (52 - Nat.log2 m)
      else (m / 2 ^ 23 + 896) * 2 ^ 52 + m % 2 ^ 23 * 2 ^ 29) := by
  have hm31 : m < 2 ^ 31 := by omega
  have hnan : ¬isNaN32 (signed32 s m) = true := by
    rw [isNaN32_iff, NaN32_signed32 s hm31]
    omega
  rw [widen, if_neg hnan, exp32_signed32 s hm31, frac32_signed32 s hm31, sign32_signed32, if_neg (by omega)]
  by_cases h0 : m = 0
  · simp [h0]
  rw [if_neg (by omega), if_neg h0]
  by_cases hsub : m < 2 ^ 23
  · rw [if_pos hsub, if_pos (by omega), Nat.mod_eq_of_lt hsub]
  · rw [if_neg hsub, if_neg (by omega)]

/-! ## Exactness -/

/-- A denormal is normalised: its leading bit becomes the hidden one. -/
theorem normalised_denormal (h0 : m ≠ 0) (hm : m < 2 ^ 23) :
    2 ^ 52 ≤ m * 2 ^ (52 - Nat.log2 m) ∧ m * 2 ^ (52 - Nat.log2 m) ≤ 2 ^ 53 ∧
      (m - 2 ^ Nat.log2 m) * 2 ^ (52 - Nat.log2 m) = m * 2 ^ (52 - Nat.log2 m) - 2 ^ 52 := by
  have hk : Nat.log2 m < 23 := (Nat.log2_lt h0).2 hm
  have hpow (i : Nat) : 2 ^ (Nat.log2 m + i) * 2 ^ (52 - Nat.log2 m) = 2 ^ (52 + i) := by
    rw [← Nat.pow_add, show Nat.log2 m + i + (52 - Nat.log2 m) = 52 + i by omega]
  refine ⟨?_, ?_, ?_⟩
  · rw [← hpow 0]
    exact Nat.mul_le_mul_right _ (Nat.log2_self_le h0)
  · rw [← hpow 1]
    exact Nat.mul_le_mul_right _ Nat.lt_log2_self.le
  · rw [Nat.sub_mul]
    exact congrArg _ (hpow 0)

/-- R184: a finite pattern widens to a finite one of the same sign and the same value. -/
theorem exists_widen_eq (s : Bool) (hm : m < 0x7F800000) : ∃ m' < 0x7FF0000000000000,
    widen (signed32 s m) = signed64 s m' ∧ magnitude 52 m' = mag32 m := by
  rw [widen_finite s hm]
  by_cases h0 : m = 0
  · exact ⟨0, by decide, by rw [if_pos h0], by simp [h0]⟩
  rw [if_neg h0]
  by_cases hsub : m < 2 ^ 23
  · have hk : Nat.log2 m < 23 := (Nat.log2_lt h0).2 hsub
    obtain ⟨hlo, hhi, hfrac⟩ := normalised_denormal h0 hsub
    refine ⟨(Nat.log2 m + 873) * 2 ^ 52 + m * 2 ^ (52 - Nat.log2 m), by omega, ?_, ?_⟩
    · rw [if_pos hsub, hfrac]
      exact congrArg _ (by omega)
    · rw [magnitude_eq_mul_two_pow hhi (.inr hlo), Nat.mul_assoc,
        two_pow_mul_two_pow_eq_mul_quantum32 (c := 0) (by omega), mag32, magnitude, if_pos (Nat.div_eq_of_lt hsub),
        Nat.mod_eq_of_lt hsub, Nat.pow_zero, Nat.one_mul]
  · have hE : m / 2 ^ 23 ≠ 0 := by omega
    refine ⟨(m / 2 ^ 23 - 1 + 896) * 2 ^ 52 + (2 ^ 23 + m % 2 ^ 23) * 2 ^ 29, by omega, ?_, ?_⟩
    · rw [if_neg hsub]
      exact congrArg _ (by omega)
    · rw [magnitude_eq_mul_two_pow (by omega) (by omega), mag32, magnitude, if_neg hE, Nat.mul_assoc, Nat.mul_assoc,
        two_pow_mul_two_pow_eq_mul_quantum32 (c := m / 2 ^ 23 - 1) (by omega)]

/-- Settles O37: the significand and the exponent are rewritten, the value is the same number. -/
theorem widenIsExact : Obligations.WidenIsExact := by
  intro f
  refine ⟨fun hfin => ?_, fun hinf => ?_, widen_of_NaN32⟩
  all_goals obtain ⟨s, m, hm, rfl⟩ := exists_eq_signed32 f
  · obtain ⟨m', hm', hw, hmag⟩ := exists_widen_eq s ((finite32_signed32 s hm).1 hfin)
    have hm63 : m' < 2 ^ 63 := by omega
    rw [hw, msb_signed64, msb_signed32, finite64_signed64 s hm63, value64_signed64 s hm63, value32_signed32 s hm, hmag]
    exact ⟨hm', rfl, rfl⟩
  · rw [toNat_signed32_mod s hm] at hinf
    rw [hinf, widen_infinity, msb_signed32]
    cases s <;> rfl

end Sys2Proof.Machine
end

section
/-! PROOFS. Rounding (43_float.md R181, R182): RNE gives a nearest multiple, the pattern that Narrow builds from it has that
multiple as its value, and so no binary32 pattern lies nearer. -/

namespace Sys2Proof.Machine

variable {d : Nat}

/-! ## RNE (R181) -/

/-- Down or up, by the remainder; at half a step to the even one. -/
theorem rne_cases (n d : Nat) :
    (rne n d = n / d ∧ 2 * (n % d) ≤ d ∧ (2 * (n % d) = d → n / d % 2 = 0)) ∨
      (rne n d = n / d + 1 ∧ d ≤ 2 * (n % d) ∧ (2 * (n % d) = d → (n / d + 1) % 2 = 0)) := by
  unfold rne
  dsimp only
  split <;> omega

/-- The rounded multiple is at most half a step away, and even where it is exactly that. -/
theorem rne_error (n : Nat) (hd : 0 < d) : 2 * |(rne n d * d : ℤ) - n| ≤ d ∧
    (2 * |(rne n d * d : ℤ) - n| = d → rne n d % 2 = 0) := by
  have hdiv : ((n / d : Nat) * d + (n % d : Nat) : ℤ) = n := mod_cast Nat.div_add_mod' n d
  have hmod := Nat.mod_lt n hd
  obtain ⟨hr, hle, heven⟩ | ⟨hr, hle, heven⟩ := rne_cases n d
  · have herr : (rne n d * d : ℤ) - n = -(n % d : Nat) := by
      rw [hr]
      linarith
    rw [herr, abs_neg, Nat.abs_cast]
    omega
  · have herr : (rne n d * d : ℤ) - n = d - (n % d : Nat) := by
      rw [hr]
      push_cast at hdiv ⊢
      linarith
    rw [herr, abs_of_nonneg (by omega)]
    omega

/-- No multiple is nearer, and where another is as near, the rounded one is even. -/
theorem rne_nearest (n : Nat) (hd : 0 < d) (j : ℤ) : |(rne n d * d : ℤ) - n| ≤ |j * d - n| ∧
    (|(rne n d * d : ℤ) - n| = |j * d - n| → j ≠ rne n d → rne n d % 2 = 0) := by
  by_cases hj : j = rne n d
  · rw [hj]
    exact ⟨le_rfl, fun _ h => absurd rfl h⟩
  obtain ⟨hle, heven⟩ := rne_error n hd
  have hstep : (d : ℤ) ≤ |j * d - rne n d * d| := by
    rw [← sub_mul, abs_mul, Nat.abs_cast]
    exact le_mul_of_one_le_left (Nat.cast_nonneg d) (Int.one_le_abs (sub_ne_zero.2 hj))
  have htri := abs_sub_le (j * d : ℤ) n (rne n d * d)
  rw [abs_sub_comm (n : ℤ)] at htri
  exact ⟨by linarith, fun heq _ => heven (by linarith)⟩

theorem rne_bounds {n lo hi : Nat} (hd : 0 < d) (hlo : lo * d ≤ n) (hhi : n < hi * d) :
    lo ≤ rne n d ∧ rne n d ≤ hi := by
  have h1 := (Nat.le_div_iff_mul_le hd).2 hlo
  have h2 := (Nat.div_lt_iff_lt_mul hd).2 hhi
  obtain ⟨hr, -, -⟩ | ⟨hr, -, -⟩ := rne_cases n d <;> omega

/-! ## The pattern of the rounded magnitude (R182) -/

/-- The exponent of the last place of a binary32 result, above that of the least denormal. -/
def roundExponent (M : Nat) : Nat := Nat.log2 M - 948

/-- The last place, in units of 2^-1074. -/
def lastPlace (M : Nat) : Nat := 2 ^ roundExponent M * quantum32

/-- The magnitude bits of the binary32 pattern nearest to M units of 2^-1074. -/
def nearest32 (M : Nat) : Nat := roundExponent M * 2 ^ 23 + rne M (lastPlace M)

theorem lastPlace_pos (M : Nat) : 0 < lastPlace M := Nat.mul_pos (Nat.two_pow_pos _) quantum32_pos

theorem two_pow_mul_lastPlace (c M : Nat) : 2 ^ c * lastPlace M = 2 ^ (c + (roundExponent M + 925)) := by
  rw [lastPlace, two_pow_mul_quantum32, ← Nat.pow_add]

theorem lt_mul_lastPlace (M : Nat) : M < 2 ^ 24 * lastPlace M :=
  calc M < 2 ^ (Nat.log2 M + 1) := Nat.lt_log2_self
    _ ≤ 2 ^ (24 + (roundExponent M + 925)) := Nat.pow_le_pow_right two_pos (by unfold roundExponent; omega)
    _ = 2 ^ 24 * lastPlace M := (two_pow_mul_lastPlace 24 M).symm

/-- Above the denormals the leading bit of M is bit 23 of the significand. -/
theorem mul_lastPlace_le {M : Nat} (h : roundExponent M ≠ 0) : 2 ^ 23 * lastPlace M ≤ M := by
  have hM : M ≠ 0 := by
    rintro rfl
    exact h rfl
  calc 2 ^ 23 * lastPlace M = 2 ^ (23 + (roundExponent M + 925)) := two_pow_mul_lastPlace 23 M
    _ = 2 ^ Nat.log2 M := by
      unfold roundExponent at *
      congr 1
      omega
    _ ≤ M := Nat.log2_self_le hM

theorem rne_lastPlace_bounds (M : Nat) :
    rne M (lastPlace M) ≤ 2 ^ 24 ∧ (roundExponent M = 0 ∨ 2 ^ 23 ≤ rne M (lastPlace M)) := by
  have hd := lastPlace_pos M
  have hhi := lt_mul_lastPlace M
  refine ⟨(rne_bounds hd (lo := 0) (by omega) hhi).2, or_iff_not_imp_left.2 fun h => ?_⟩
  exact (rne_bounds hd (mul_lastPlace_le h) hhi).1

/-- The pattern has the rounded multiple as its value, also where that carries into the exponent. -/
theorem mag32_nearest32 (M : Nat) : mag32 (nearest32 M) = rne M (lastPlace M) * lastPlace M := by
  obtain ⟨hhi, hlo⟩ := rne_lastPlace_bounds M
  rw [mag32, nearest32, magnitude_eq_mul_two_pow hhi hlo, Nat.mul_assoc, lastPlace]

/-- A pattern is a multiple of the last place, or lies below the least significand that M's exponent has. -/
theorem mag32_multiple_or_lt (M q : Nat) : (∃ j : Nat, mag32 q = j * lastPlace M) ∨
    roundExponent M ≠ 0 ∧ mag32 q < 2 ^ 23 * lastPlace M := by
  obtain ⟨e, G, rfl, hG, he⟩ := exists_eq_mul_two_pow_add 23 q
  rw [mag32, magnitude_eq_mul_two_pow hG.le he, lastPlace]
  by_cases hle : roundExponent M ≤ e
  · refine .inl ⟨G * 2 ^ (e - roundExponent M), ?_⟩
    calc G * 2 ^ e * quantum32 = G * (2 ^ (e - roundExponent M) * 2 ^ roundExponent M) * quantum32 := by
          rw [← Nat.pow_add, Nat.sub_add_cancel hle]
      _ = G * 2 ^ (e - roundExponent M) * (2 ^ roundExponent M * quantum32) := by simp only [Nat.mul_assoc]
  · refine .inr ⟨by omega, ?_⟩
    rw [← Nat.mul_assoc]
    refine Nat.mul_lt_mul_of_pos_right ?_ quantum32_pos
    calc G * 2 ^ e < 2 ^ 24 * 2 ^ e := Nat.mul_lt_mul_of_pos_right hG (Nat.two_pow_pos e)
      _ = 2 ^ 23 * 2 ^ (e + 1) := by rw [Nat.pow_succ']; omega
      _ ≤ 2 ^ 23 * 2 ^ roundExponent M := Nat.mul_le_mul_left _ (Nat.pow_le_pow_right two_pos (by omega))

theorem abs_natCast_sub_of_le {a b : Nat} (h : a ≤ b) : |(a : ℤ) - b| = b - a := by
  rw [abs_sub_comm, abs_of_nonneg (by omega)]

/-- R181, R182: no binary32 magnitude is nearer to M, and where another is as near, the last bit is 0. -/
theorem nearest32_nearest (M q : Nat) :
    |(mag32 (nearest32 M) : ℤ) - M| ≤ |(mag32 q : ℤ) - M| ∧
      (|(mag32 (nearest32 M) : ℤ) - M| = |(mag32 q : ℤ) - M| → mag32 q ≠ mag32 (nearest32 M) →
        nearest32 M % 2 = 0) := by
  have hpar : nearest32 M % 2 = rne M (lastPlace M) % 2 := by
    unfold nearest32
    omega
  rw [hpar, mag32_nearest32]
  rcases mag32_multiple_or_lt M q with ⟨j, hj⟩ | ⟨hexp, hlt⟩
  · obtain ⟨hle, heven⟩ := rne_nearest M (lastPlace_pos M) j
    rw [hj, Nat.cast_mul, Nat.cast_mul]
    exact ⟨hle, fun heq hne => heven heq fun h => hne (by rw [Int.ofNat_inj.1 h])⟩
  · have hle := (rne_nearest M (lastPlace_pos M) (2 ^ 23 : Nat)).1
    have hM := mul_lastPlace_le hexp
    rw [← Nat.cast_mul, ← Nat.cast_mul, abs_natCast_sub_of_le hM] at hle
    rw [abs_natCast_sub_of_le (hlt.le.trans hM)]
    exact ⟨by omega, fun heq => by omega⟩

/-- The same for a number of either sign, with 0 as the nearest of the other sign. -/
theorem nearest32_nearest_signed (M q : Nat) {z : ℤ} (hz : z.natAbs = mag32 q) :
    |(mag32 (nearest32 M) : ℤ) - M| ≤ |z - M| ∧
      (|(mag32 (nearest32 M) : ℤ) - M| = |z - M| → z ≠ mag32 (nearest32 M) → nearest32 M % 2 = 0) := by
  obtain h | h := z.natAbs_eq
  · rw [h, hz]
    obtain ⟨hle, heven⟩ := nearest32_nearest M q
    exact ⟨hle, fun heq hne => heven heq fun h => hne (congrArg _ h)⟩
  · obtain ⟨hle, heven⟩ := nearest32_nearest M 0
    have hneg : |z - M| = z.natAbs + M := by
      rw [abs_of_nonpos (by omega)]
      omega
    rw [mag32_zero, Nat.cast_zero, zero_sub, abs_neg, Nat.abs_cast] at hle heven
    rw [hneg]
    exact ⟨by omega, fun heq hne => heven (by omega) (by omega)⟩

/-! ## Exact values and the largest one -/

theorem nearest32_mag32 (m : Nat) : nearest32 (mag32 m) = m := by
  have hle := (nearest32_nearest (mag32 m) m).1
  rw [sub_self, abs_zero, abs_nonpos_iff, sub_eq_zero, Int.ofNat_inj] at hle
  exact mag32_strictMono.injective hle

theorem fltMax_eq : fltMax = mag32 0x7F7FFFFF := by
  have h : magnitude 23 0x7F7FFFFF = (2 ^ 24 - 1) * 2 ^ 253 :=
    magnitude_eq_mul_two_pow (e := 253) (G := 2 ^ 24 - 1) (by decide) (by decide)
  rw [mag32, h, Nat.mul_assoc, ← two_pow_mul_two_pow_eq_mul_quantum32 (a := 104) (b := 1074) (by decide),
    ← Nat.mul_assoc, fltMax]

/-- FLT_MAX is a pattern, so a magnitude up to it does not round to a larger one. -/
theorem nearest32_lt {M : Nat} (h : M ≤ fltMax) : nearest32 M < 0x7F800000 := by
  have hnear := (nearest32_nearest M 0x7F7FFFFF).1
  rw [← fltMax_eq, abs_of_nonneg (by omega : (0 : ℤ) ≤ (fltMax : ℤ) - M)] at hnear
  have hself := le_abs_self ((mag32 (nearest32 M) : ℤ) - M)
  have hle : mag32 (nearest32 M) ≤ mag32 0x7F7FFFFF := by
    rw [← fltMax_eq]
    omega
  exact Nat.lt_succ_of_le (mag32_strictMono.le_iff_le.1 hle)

end Sys2Proof.Machine
end

section
/-! PROOFS. Narrowing (43_float.md R182) of the pattern with sign s and magnitude bits m, branch by branch, and its value. -/

namespace Sys2Proof.Machine

open Sys2Proof.Claims

variable {m : Nat}

/-! ## The branches -/

theorem not_isNaN64_signed64 (s : Bool) (hm : m ≤ 0x7FF0000000000000) : ¬isNaN64 (signed64 s m) = true := by
  rw [isNaN64_iff, NaN64_signed64 s (by omega)]
  omega

theorem isInf64_signed64 (s : Bool) (hm : m < 2 ^ 63) :
    isInf64 (signed64 s m) = true ↔ m = 0x7FF0000000000000 := by
  rw [isInf64, decide_eq_true_iff, exp64_signed64 s hm, frac64_signed64 s hm]
  omega

theorem narrow_of_NaN64 {d : Split64} (h : NaN64 d) : narrow d = 0x7FC00000#32 := if_pos ((isNaN64_iff d).2 h)

theorem narrow_zero (s : Bool) : narrow (signed64 s 0) = signed32 s 0 := by
  cases s <;> decide

/-- An infinity, and a magnitude above FLT_MAX. -/
theorem narrow_infinity (s : Bool) (hm : m ≤ 0x7FF0000000000000)
    (h : m = 0x7FF0000000000000 ∨ fltMax < magnitude 52 m) : narrow (signed64 s m) = signed32 s 0x7F800000 := by
  have hm63 : m < 2 ^ 63 := by omega
  have h0 : m ≠ 0 := by
    rintro rfl
    simp at h
  rw [narrow, if_neg (not_isNaN64_signed64 s hm), exp64_signed64 s hm63, frac64_signed64 s hm63, sign64_signed64,
    mag64_signed64 s hm63, if_neg (by omega), if_pos (h.imp_left (isInf64_signed64 s hm63).2)]

theorem minNormal32_le_iff {M : Nat} (h0 : M ≠ 0) : minNormal32 ≤ M ↔ 948 ≤ Nat.log2 M := by
  rw [Nat.log2_eq_log_two]
  unfold minNormal32
  simp only [Nat.le_log_iff_pow_le one_lt_two h0]

theorem minNormal32_pos : 0 < minNormal32 := by
  unfold minNormal32
  positivity

theorem nearest32_zero : nearest32 0 = 0 := by
  have h := nearest32_mag32 0
  rwa [mag32_zero] at h

/-- Below the normal range the last place is the least denormal. -/
theorem nearest32_of_lt {M : Nat} (h : M < minNormal32) : nearest32 M = rne M (2 ^ 925) := by
  have hlog : roundExponent M = 0 := by
    rcases eq_or_ne M 0 with rfl | h0
    · rfl
    · rw [← not_le, minNormal32_le_iff h0] at h
      unfold roundExponent
      omega
  rw [nearest32, lastPlace, hlog, Nat.zero_mul, Nat.zero_add, Nat.pow_zero, Nat.one_mul, quantum32]

/-- In the normal range the last place is bit 23 below the leading one; a carry to 2^24 moves into the exponent. -/
theorem nearest32_of_le {M : Nat} (h : minNormal32 ≤ M) :
    nearest32 M = if rne M (2 ^ (Nat.log2 M - 23)) = 2 ^ 24 then (Nat.log2 M + 1 - 947) * 2 ^ 23 + (2 ^ 23 - 2 ^ 23)
      else (Nat.log2 M - 947) * 2 ^ 23 + (rne M (2 ^ (Nat.log2 M - 23)) - 2 ^ 23) := by
  have h0 : M ≠ 0 := (minNormal32_pos.trans_le h).ne'
  have hk := (minNormal32_le_iff h0).1 h
  have hexp : roundExponent M + 925 = Nat.log2 M - 23 := by
    unfold roundExponent
    omega
  have hplace : lastPlace M = 2 ^ (Nat.log2 M - 23) := by rw [lastPlace, two_pow_mul_quantum32, hexp]
  have hbit : 2 ^ 23 * lastPlace M ≤ M := by
    rw [hplace, ← Nat.pow_add, show 23 + (Nat.log2 M - 23) = Nat.log2 M by omega]
    exact Nat.log2_self_le h0
  have hlo := (rne_bounds (lastPlace_pos M) hbit (lt_mul_lastPlace M)).1
  rw [← hplace]
  unfold nearest32 roundExponent
  split <;> omega

/-- Rounded to an integral number of last places (R182). -/
theorem narrow_finite (s : Bool) (hm : m < 0x7FF0000000000000) (hle : magnitude 52 m ≤ fltMax) :
    narrow (signed64 s m) = signed32 s (nearest32 (magnitude 52 m)) := by
  have hm63 : m < 2 ^ 63 := by omega
  rcases eq_or_ne m 0 with rfl | h0
  · rw [narrow_zero, magnitude_zero, nearest32_zero]
  have hinf : ¬(isInf64 (signed64 s m) = true ∨ fltMax < magnitude 52 m) := by
    rw [isInf64_signed64 s hm63]
    omega
  rw [narrow, if_neg (not_isNaN64_signed64 s hm.le), exp64_signed64 s hm63, frac64_signed64 s hm63, sign64_signed64,
    mag64_signed64 s hm63, if_neg (by omega), if_neg hinf]
  by_cases hsub : magnitude 52 m < minNormal32
  · rw [if_pos hsub, nearest32_of_lt hsub]
  · rw [if_neg hsub, nearest32_of_le (Nat.le_of_not_lt hsub), apply_ite (signed32 s)]

/-! ## The threshold -/

theorem value_fltMax : (fltMax : ℚ) * 2 ^ (-1074 : ℤ) = (2 ^ 24 - 1) * 2 ^ 104 := by
  rw [fltMax, Nat.cast_mul, mul_assoc, Nat.cast_pow 2 1074, Nat.cast_ofNat, ← zpow_natCast, ← zpow_add₀ two_ne_zero]
  norm_num

theorem abs_value64_le_iff (s : Bool) (hm : m < 2 ^ 63) :
    |value64 (signed64 s m)| ≤ (2 ^ 24 - 1) * 2 ^ 104 ↔ magnitude 52 m ≤ fltMax := by
  rw [value64_signed64 s hm, abs_signedUnits, Nat.abs_cast, Int.cast_natCast, ← value_fltMax,
    mul_le_mul_iff_of_pos_right (by positivity), Nat.cast_le]

theorem lt_abs_value64_iff (s : Bool) (hm : m < 2 ^ 63) :
    (2 ^ 24 - 1) * 2 ^ 104 < |value64 (signed64 s m)| ↔ fltMax < magnitude 52 m := by
  rw [← not_le, abs_value64_le_iff s hm, not_le]

/-- Settles O39: the branches of R182; up to FLT_MAX, which is a pattern, the nearest pattern is no larger than it. -/
theorem narrowBranches : Obligations.NarrowBranches := by
  intro d
  refine ⟨narrow_of_NaN64, ?_⟩
  obtain ⟨s, m, hm, rfl⟩ := exists_eq_signed64 d
  rw [msb_signed64, toNat_signed64_mod s hm, finite64_signed64 s hm, abs_value64_le_iff s hm,
    lt_abs_value64_iff s hm]
  refine ⟨?_, fun h => ?_, fun hfin hle => ?_⟩
  · rintro rfl
    rw [narrow_zero]
    cases s <;> rfl
  · rw [narrow_infinity s (by omega) (h.imp_right And.right)]
    cases s <;> rfl
  · rw [narrow_finite s hfin hle, msb_signed32]
    have hlt := nearest32_lt hle
    exact ⟨(finite32_signed32 s (by omega)).2 hlt, rfl⟩

/-- Settles O38: an infinity is kept, and a finite pattern is the one nearest to its own value. -/
theorem narrowUndoesWiden : Obligations.NarrowUndoesWiden := by
  intro f hnan
  obtain ⟨s, m, hm, rfl⟩ := exists_eq_signed32 f
  rw [NaN32_signed32 s hm, not_lt] at hnan
  rcases hnan.eq_or_lt with rfl | hfin
  · rw [widen_infinity, narrow_infinity s (le_refl _) (.inl rfl)]
  · obtain ⟨m', hm', hw, hmag⟩ := exists_widen_eq s hfin
    have hle : magnitude 52 m' ≤ fltMax := by
      rw [hmag, fltMax_eq]
      exact mag32_strictMono.monotone (by omega)
    rw [hw, narrow_finite s hm' hle, hmag, nearest32_mag32]

/-- Settles O40: distances are compared as distances of integers. -/
theorem narrowRoundsToNearestEven : Obligations.NarrowRoundsToNearestEven := by
  intro d q hfin hle _
  obtain ⟨s, m, hm, rfl⟩ := exists_eq_signed64 d
  obtain ⟨t, k, hk, rfl⟩ := exists_eq_signed32 q
  obtain ⟨z, hz, hq⟩ := exists_value32_eq_signedUnits s t hk
  rw [finite64_signed64 s hm] at hfin
  rw [abs_value64_le_iff s hm] at hle
  have hn : nearest32 (magnitude 52 m) < 2 ^ 31 := (nearest32_lt hle).trans (by decide)
  have hpos : (0 : ℚ) < 2 ^ (-1074 : ℤ) := by positivity
  obtain ⟨hnear, heven⟩ := nearest32_nearest_signed (magnitude 52 m) k hz
  rw [narrow_finite s hfin hle, value32_signed32 s hn, value64_signed64 s hm, hq, abs_signedUnits_sub,
    abs_signedUnits_sub, mul_le_mul_iff_of_pos_right hpos, Int.cast_le, mul_left_inj' hpos.ne', Int.cast_inj]
  refine ⟨hnear, fun heq hne => ?_⟩
  have hbit := heven heq fun h => hne (congrArg _ h)
  rw [toNat_signed32 s hn]
  omega

end Sys2Proof.Machine
end

section
/-! PROOFS. The commands of 43_float.md (R185 to R190): what each reads and writes. -/

namespace Sys2Proof.Machine

open Sys2Proof.Claims

/-- Settles O41: each conversion is one result. -/
theorem floatRegisterConversions : Obligations.FloatRegisterConversions :=
  ⟨runsAs_of_row unusedButRdRs1 rfl rfl fun _ => ⟨rfl, rfl, rfl⟩,
    runsAs_of_row unusedButRdRs1 rfl rfl fun _ => ⟨rfl, rfl, rfl⟩,
    fun _ _ _ => ⟨exec_eq_wrote rfl rfl, exec_eq_wrote rfl (congrArg widen (lo_eq_setWidth _))⟩⟩

/-- Settles O42: the bytes at POS are those of the fixed reads, and the result is a function of them. -/
theorem floatReads : Obligations.FloatReads := by
  refine ⟨runsAs_of_row unusedButRd rfl rfl fun _ => ⟨rfl, rfl, rfl⟩,
    runsAs_of_row unusedButRd rfl rfl fun _ => ⟨rfl, rfl, rfl⟩, fun rd s b hb => ⟨?_, fun d hd => ?_⟩⟩
  · split
    next h => exact congrArg _ (s.readFixed_inside rd h (congrArg widen (State.ofNat_readLE_four hb)))
    next h => exact congrArg _ (s.readFixed_past rd (Nat.lt_of_not_le h))
  · have hw : s.twoWords = d := (State.twoWords_eq hb).trans hd.symm
    have inside {v : Split64} (h : s.pos.toNat + 8 ≤ s.endAddr.toNat) (hv : canonical64 d = v) :
        exec (.rdbl rd) s = .next (readDone s rd v 8) :=
      congrArg _ (s.readFixed_inside rd (f := fun _ => canonical64 s.twoWords) h (hw ▸ hv))
    exact ⟨fun h => congrArg _ (s.readFixed_past rd h), fun h hn => inside h (canonical64_of_NaN64 hn),
      fun h hn => inside h (canonical64_of_not_NaN64 hn)⟩

/-- Settles O43: each write is ENC_OVF or its bytes. -/
theorem floatWrites : Obligations.FloatWrites :=
  ⟨runsAs_of_row unusedButRs1 rfl rfl fun _ => ⟨rfl, rfl, rfl⟩,
    runsAs_of_row unusedButRs1 rfl rfl fun _ => ⟨rfl, rfl, rfl⟩,
    fun r s => ⟨exec_wflt_eq s r, fun h => canonical64_of_not_NaN64 h ▸ exec_wdbl_eq s r,
      fun h => canonical64_of_NaN64 h ▸ exec_wdbl_eq s r⟩⟩

end Sys2Proof.Machine
end

section
/-! PROOFS. The commands of 44_cursor_moves.md (R200 to R204): control-register moves, the start of a block, and the
decoder cursor. -/

namespace Sys2Proof.Machine

open Sys2Proof.Claims

/-! ## The words (R77, R80) -/

/-- All but rd and imm8: bits 19:8. -/
def unusedButRdImm8 : UnusedFields := ⟨false, true, true, true, false⟩

/-- All but rs1 and imm8: bits 23:20 and 15:8. -/
def unusedButRs1Imm8 : UnusedFields := ⟨true, false, true, true, false⟩

/-- All but rs1 and rs2: bits 23:20 and 11:0. -/
def unusedButRs1Rs2 : UnusedFields := ⟨true, false, false, true, true⟩

/-! ## MFCR (R200) -/

theorem toNat_append_eq {m n : Nat} (a : BitVec m) (b : BitVec n) : (a ++ b).toNat = a.toNat * 2 ^ n + b.toNat := by
  rw [BitVec.toNat_append, ← Nat.shiftLeft_add_eq_or_of_lt b.isLt, Nat.shiftLeft_eq]

/-- The STATUS word is the sum of its fields at their bits (R24). -/
theorem Status.word_toNat (st : Status) :
    st.word.toNat = st.derr.toNat + 2 * st.fail.toNat + 4 * st.fvalid.toNat + 8 * st.fault.toNat +
      16 * st.ecode.toNat + 256 * st.fcode.toNat := by
  simp only [Status.word, toNat_append_eq, BitVec.toNat_ofBool, BitVec.toNat_ofNat]
  omega

/-- Settles O44: each number names its register, and STATUS is read as one word. -/
theorem mfcrReadsEveryControlRegister : Obligations.MfcrReadsEveryControlRegister := by
  refine ⟨runsAs_of_row unusedButRdImm8 rfl rfl fun _ => ⟨rfl, rfl, rfl⟩,
    fun rd s => ⟨exec_eq_wrote rfl ?_, rfl, rfl, rfl, rfl, rfl, rfl, rfl, rfl⟩⟩
  rw [zext_eq_ofNat, Status.word_toNat]

/-! ## MTCR (R201) -/

section
variable {s t : State} {cr : BitVec 8} {r : Reg}

theorem hi_eq_zero_iff (v : Split64) : hi v = 0#32 ↔ v.toNat < 2 ^ 32 := by
  rw [← BitVec.toNat_inj, hi_toNat]
  exact Nat.div_eq_zero_iff_lt (by decide)

/-- MTCR of a cursor, by the state with the cursor written. -/
theorem exec_mtcr_of_writeCursor (hcr : crLegal cr = true) (ht : s.writeCursor cr (s.x[r].setWidth 32) = some t) :
    exec (.mtcr cr r) s =
      if s.x[r].toNat < 2 ^ 32 ∧ t.cursorsOk then .next (t.advance 1)
      else .next (contractFault 6#8 (Instr.mtcr cr r).word0 s) := by
  simp only [exec, execMtcr, hcr, State.reg_eq, lo_eq_setWidth, ht, hi_eq_zero_iff, if_true]
  rfl

theorem exec_mtcr_writes (hcr : crLegal cr = true) (ht : s.writeCursor cr (s.x[r].setWidth 32) = some t)
    (hx : s.x[r].toNat < 2 ^ 32) (hc : t.CursorInv) : exec (.mtcr cr r) s = .next (t.advance 1) :=
  (exec_mtcr_of_writeCursor hcr ht).trans (if_pos ⟨hx, t.cursorsOk_iff.2 hc⟩)

theorem exec_mtcr_faults (hcr : crLegal cr = true) (ht : s.writeCursor cr (s.x[r].setWidth 32) = some t)
    (h : 2 ^ 32 ≤ s.x[r].toNat ∨ ¬t.CursorInv) :
    exec (.mtcr cr r) s = .next (contractFault 6#8 (Instr.mtcr cr r).word0 s) :=
  (exec_mtcr_of_writeCursor hcr ht).trans (if_neg fun ⟨hx, hc⟩ => h.elim hx.not_ge (absurd (t.cursorsOk_iff.1 hc)))

/-- The numbers of the read-only registers name no cursor. -/
theorem State.writeCursor_readOnly (v : Word) (h : cr.toNat = 0 ∨ 5 ≤ cr.toNat) : s.writeCursor cr v = none := by
  unfold State.writeCursor
  split
  case h_5 => rfl
  all_goals omega

theorem exec_mtcr_readOnly (h : cr.toNat = 0 ∨ (5 ≤ cr.toNat ∧ cr.toNat ≤ 8)) :
    exec (.mtcr cr r) s = .next (contractFault 6#8 (Instr.mtcr cr r).word0 s) := by
  have hcr : crLegal cr = true := decide_eq_true (by omega)
  simp only [exec, execMtcr, hcr, State.writeCursor_readOnly _ (h.imp_right And.left), if_true]
  rfl

end

/-- Settles O45: by whether the number names a cursor, and if so by the state with that cursor written. -/
theorem mtcrWritesACursorOrFaultsCfg : Obligations.MtcrWritesACursorOrFaultsCfg := by
  refine ⟨runsAs_of_row unusedButRs1Imm8 rfl rfl fun _ => ⟨rfl, rfl, rfl⟩, ?_⟩
  rintro r s _ rfl
  exact ⟨fun hx => ⟨exec_mtcr_writes rfl rfl hx, exec_mtcr_writes rfl rfl hx, exec_mtcr_writes rfl rfl hx,
      exec_mtcr_writes rfl rfl hx⟩,
    exec_mtcr_faults rfl rfl, exec_mtcr_faults rfl rfl, exec_mtcr_faults rfl rfl, exec_mtcr_faults rfl rfl,
    fun _ => exec_mtcr_readOnly⟩

/-! ## SETBLK (R202) -/

theorem ofNat_toNat_add_toNat (a b : Split64) : BitVec.ofNat 32 (a.toNat + b.toNat) = (a + b).setWidth 32 := by
  rw [BitVec.ofNat_add, BitVec.ofNat_toNat, BitVec.ofNat_toNat, BitVec.setWidth_add _ _ (by decide)]

/-- SETBLK by whether the block fits, the registers read as whole values. -/
theorem exec_setblk_eq (a n : Reg) (s : State) : exec (.setblk a n) s =
    if s.memBytes < s.x[a].toNat + s.x[n].toNat then .next (contractFault 6#8 (Instr.setblk a n).word0 s)
    else .next { s with
      start := s.x[a].setWidth 32, pos := s.x[a].setWidth 32, endAddr := (s.x[a] + s.x[n]).setWidth 32,
      status := { s.status with derr := false, ecode := 0#4, fvalid := false, fail := false },
      tag := 0#32, cp := s.cp + 1#32 } := by
  simp only [exec, execSetblk, State.reg_eq, u_eq_toNat, ofNat_toNat_add_toNat, BitVec.ofNat_toNat]
  rfl

/-- Settles O46: by whether the block fits. -/
theorem setblkStartsABlockOrFaultsCfg : Obligations.SetblkStartsABlockOrFaultsCfg :=
  ⟨runsAs_of_row unusedButRs1Rs2 rfl rfl fun _ => ⟨rfl, rfl, rfl⟩,
    fun a n s => ⟨fun h => (exec_setblk_eq a n s).trans (if_neg (Nat.not_lt.2 h)),
      fun h => (exec_setblk_eq a n s).trans (if_pos h)⟩⟩

/-! ## ADV and ATEND (R203, R204) -/

theorem bit_pos_beq_endAddr (s : State) :
    bit (s.pos == s.endAddr) = if s.pos.toNat = s.endAddr.toNat then 1#64 else 0#64 := by
  simp only [bit_eq, beq_iff_eq, BitVec.toNat_inj]

/-- ADV by whether it goes beyond END. -/
theorem exec_adv_eq (r : Reg) (s : State) : exec (.adv r) s =
    if s.endAddr.toNat < s.pos.toNat + s.x[r].toNat then .next (decodeError 1#4 s)
    else .next { s with
      pos := BitVec.ofNat 32 (s.pos.toNat + s.x[r].toNat), status := { s.status with fail := false },
      cp := s.cp + 1#32 } := by
  simp only [exec, execAdv, State.reg_eq, u_eq_toNat, BitVec.ofNat_add, BitVec.ofNat_toNat, BitVec.setWidth_eq,
    State.advancePos]
  rfl

/-- Settles O47: ADV by whether it stays within the block; ATEND is one result. -/
theorem advMovesUpToEndAndAtendTests : Obligations.AdvMovesUpToEndAndAtendTests :=
  ⟨runsAs_of_row unusedButRs1 rfl rfl fun _ => ⟨rfl, rfl, rfl⟩,
    runsAs_of_row unusedButRd rfl rfl fun _ => ⟨rfl, rfl, rfl⟩,
    fun r s => ⟨fun h => (exec_adv_eq r s).trans (if_neg (Nat.not_lt.2 h)),
      fun h => (exec_adv_eq r s).trans (if_pos h), exec_eq_wrote rfl (bit_pos_beq_endAddr s)⟩⟩

end Sys2Proof.Machine
end

section
/-! PROOFS. The commands of 45_field_tag.md (R222 to R224): the tag parser, the check of the field held, and the tag
writer. -/

namespace Sys2Proof.Machine

open Sys2Proof.Claims

variable {s : State} {t : Word}

/-! ## NEXTF (R222) -/

/-- The wire type is TAG[2:0] and the field number TAG[31:3] (R29, R220). -/
theorem tagResult_eq_ofNat (t : Word) : tagResult t = BitVec.ofNat 64 (t.toNat % 8 * 2 ^ 32 + t.toNat / 8) := by
  rw [← tagResult_toNat, BitVec.ofNat_toNat, BitVec.setWidth_eq]

/-- A wire type above 5 is an error whatever the field number is. -/
theorem checkTag_badWireType {n : Nat} (h : 5 < t.toNat % 8) : checkTag (.ok (t, n)) = .error .badWireType :=
  if_pos ((tagWireType_toNat t).symm ▸ h)

theorem checkTag_badFieldNum {n : Nat} (hwt : t.toNat % 8 ≤ 5) (h : t.toNat / 8 = 0) :
    checkTag (.ok (t, n)) = .error .badFieldNum := by
  have hw : ¬5 < (tagWireType t).toNat := by rw [tagWireType_toNat]; omega
  have hf : tagField t = 0#29 := BitVec.eq_of_toNat_eq ((tagField_toNat t).trans h)
  exact (if_neg hw).trans (if_pos hf)

/-- A decode error of NEXTF: FVALID is cleared first (R222), then R244. -/
theorem execNextf_error {e : DecodeError} (rd : Reg) (hpos : s.pos ≠ s.endAddr)
    (h : checkTag (varint32Scan s.decByte) = .error e) :
    execNextf rd s = .next (decodeError e.code { s with status := { s.status with fvalid := false } }) := by
  rw [execNextf, if_neg hpos, h]
  rfl

/-- Settles O56: at END nothing is scanned; else by what the scan answers and, for a tag, by its wire type and then its
field number. -/
theorem nextfParsesATag : Obligations.NextfParsesATag := by
  refine ⟨runsAs_of_row unusedButRd rfl rfl fun _ => ⟨rfl, rfl, rfl⟩, ?_⟩
  rintro rd s _ rfl
  refine ⟨fun h => if_pos (BitVec.eq_of_toNat_eq h), fun h => ?_⟩
  have hpos : s.pos ≠ s.endAddr := mt (congrArg BitVec.toNat) h
  refine ⟨fun e he => ⟨e.code, ?_, ?_⟩, fun t n ht => ⟨fun hwt => ?_, fun hwt hf => ?_, fun hwt hf => ?_⟩⟩
  · obtain rfl | rfl | rfl := s.varint32_error he <;> decide
  · exact execNextf_error rd hpos (congrArg checkTag he)
  · exact execNextf_error rd hpos ((congrArg checkTag ht).trans (checkTag_badWireType hwt))
  · exact execNextf_error rd hpos ((congrArg checkTag ht).trans (checkTag_badFieldNum hwt hf))
  · rw [← tagResult_eq_ofNat]
    exact execNextf_tag hpos ht hwt hf

/-! ## WTCHK (R223) -/

/-- All but imm8: bits 23:8. -/
def unusedButImm8 : UnusedFields := ⟨true, true, true, true, false⟩

/-- WTCHK of a legal wire type, by whether a field with another one or none is held. -/
theorem exec_wtchk_eq {wt : BitVec 8} (hwt : wt.toNat ≤ 5) (s : State) : exec (.wtchk wt) s =
    if s.status.fvalid = false ∨ s.tag.toNat % 8 ≠ wt.toNat then .next (contractFault 4#8 (Instr.wtchk wt).word0 s)
    else .next { s with cp := s.cp + 1#32 } := by
  simp only [exec, execWtchk, wtLegal, hwt, decide_true, if_true, tagWireType_toNat]
  rfl

/-- Settles O57: by whether a field with that wire type is held. -/
theorem wtchkChecksTheCurrentField : Obligations.WtchkChecksTheCurrentField := by
  refine ⟨runsAs_of_row unusedButImm8 rfl rfl fun _ => ⟨rfl, rfl, rfl⟩, fun wt s hwt => ⟨fun hv ht => ?_, fun h => ?_⟩⟩
  · exact (exec_wtchk_eq hwt s).trans (if_neg (by simp [hv, ht]))
  · exact (exec_wtchk_eq hwt s).trans (if_pos h)

/-! ## WTAG (R224) -/

/-- Settles O58: the write is its check, ENC_OVF and its bytes. -/
theorem wtagWritesATag : Obligations.WtagWritesATag :=
  ⟨runsAs_of_row unusedButRs1Imm8 rfl rfl fun _ => ⟨rfl, rfl, rfl⟩, fun r _ s hwt => exec_wtag_eq s r hwt⟩

end Sys2Proof.Machine
end

section
/-! PROOFS. The four outcomes of a command (60_exceptions.md R240): every end of a command is one of them, and FAULT and FAIL
tell them apart; what FAIL reports (R245). -/

namespace Sys2Proof.Claims

open Sys2Proof.Machine

variable {s t : State} {i : Instr}

/-! ## FAULT and FAIL after each outcome -/

theorem Succeeds.fault_eq (h : Succeeds i s t) : t.status.fault = s.status.fault := by
  obtain ⟨-, hfault, -⟩ := h
  exact hfault

theorem Succeeds.fail_eq_false (h : Succeeds i s t) (hw : writesFail i = true) : t.status.fail = false := by
  obtain ⟨-, -, -, -, hfail, -⟩ := h
  exact hfail.trans (if_pos hw)

theorem FailsQuietly.fault_eq (h : FailsQuietly i s t) : t.status.fault = s.status.fault := by
  obtain ⟨_, _, _, _, -, -, rfl⟩ := h
  rfl

theorem FailsQuietly.fail_eq_true (h : FailsQuietly i s t) : t.status.fail = true := by
  obtain ⟨_, _, _, _, -, -, rfl⟩ := h
  rfl

/-- The failure result is DIV's, which writes FAIL and takes no bytes of the wire. -/
theorem FailsQuietly.command (h : FailsQuietly i s t) : writesFail i = true ∧ canDecodeError i = false := by
  obtain ⟨_, _, _, _, rfl, -⟩ := h
  exact ⟨rfl, rfl⟩

theorem DecodeErrs.fault_eq (h : DecodeErrs i s t) : t.status.fault = s.status.fault := by
  obtain ⟨-, c, -, -, rfl⟩ := h
  cases i <;> rfl

theorem DecodeErrs.fail_eq_true (h : DecodeErrs i s t) : t.status.fail = true := by
  obtain ⟨-, c, -, -, rfl⟩ := h
  rfl

theorem Faults.fault_eq_true (h : Faults i s t) : t.status.fault = true := by
  obtain ⟨c, -, -, rfl⟩ := h
  rfl

theorem Faults.fail_eq (h : Faults i s t) : t.status.fail = s.status.fail := by
  obtain ⟨c, -, -, rfl⟩ := h
  rfl

/-! ## No two outcomes hold together -/

theorem Succeeds.not_failsQuietly (h : Succeeds i s t) : ¬FailsQuietly i s t := fun hq => by
  simpa [hq.fail_eq_true] using h.fail_eq_false hq.command.1

theorem Succeeds.not_decodeErrs (h : Succeeds i s t) : ¬DecodeErrs i s t := fun hd => by
  simpa [hd.fail_eq_true] using h.fail_eq_false (writesFail_of_canDecodeError hd.1)

theorem FailsQuietly.not_decodeErrs (h : FailsQuietly i s t) : ¬DecodeErrs i s t := fun hd => by
  simpa [hd.1] using h.command.2

/-- A command that leaves FAULT as it was in a unit that is not halted has not faulted. -/
theorem not_faults_of_fault_eq (hs : s.status.fault = false) (h : t.status.fault = s.status.fault) : ¬Faults i s t :=
  fun hf => by simp [hs, hf.fault_eq_true] at h

end Sys2Proof.Claims

namespace Sys2Proof.Machine

open Sys2Proof.Claims

variable {s t : State} {i : Instr}

/-! ## Every end is one of the four -/

/-- The decode-error codes are 1 to 5 (R246). -/
theorem DecodeError.code_bounds (e : DecodeError) : 1 ≤ e.code.toNat ∧ e.code.toNat ≤ 5 := by
  cases e <;> decide

theorem writesFail_eq_false_of_isWrite (h : isWrite i = true) : writesFail i = false := by
  unfold isWrite at h
  split at h
  case h_16 => cases h
  all_goals rfl

/-- The model's fault is one of R241. -/
theorem faults_raiseFault (i : Instr) (s : State) (c : FaultCode) : Faults i s (s.raiseFault c i.word0) :=
  ⟨c.code, c.code_bounds.1, c.code_bounds.2, State.raiseFault_eq_contractFault c i.word0⟩

/-- The decode error of a read or ADV. -/
theorem decodeErrs_raiseDecodeError (e : DecodeError) (hi : canDecodeError i = true) (hn : ∀ rd, i ≠ .nextf rd) :
    DecodeErrs i s (s.raiseDecodeError e) := by
  refine ⟨hi, e.code, e.code_bounds.1, e.code_bounds.2, ?_⟩
  split
  · exact absurd rfl (hn _)
  · rfl

/-- The ends of a command are the four outcomes (R240). -/
theorem Ends.outcome (h : Ends i s t) : Succeeds i s t ∨ FailsQuietly i s t ∨ DecodeErrs i s t ∨ Faults i s t := by
  cases h with
  | fault c => exact .inr (.inr (.inr (faults_raiseFault i s c)))
  | error e hi hn => exact .inr (.inr (.inl (decodeErrs_raiseDecodeError e hi hn)))
  | badField rd e hi =>
    subst hi
    exact .inr (.inr (.inl ⟨rfl, e.code, e.code_bounds.1, e.code_bounds.2, rfl⟩))
  | divZero rd rs3 rs1 rs2 hi h0 =>
    have hx : s.x[rs2].toNat % 2 ^ 32 = 0 := by rw [← lo_toNat, ← State.reg_eq, h0]; rfl
    exact .inr (.inl ⟨rd, rs3, rs1, rs2, hi, hx, rfl⟩)
  | div _ _ _ _ _ _ hi | pass _ hi | moved _ hi | noField _ hi | field _ _ _ hi =>
    subst hi
    exact .inl ⟨rfl, rfl, rfl, rfl, rfl, fun _ => ⟨rfl, rfl⟩⟩
  | cursor _ _ _ hi ht =>
    subst hi
    obtain ⟨_, _, _, _, rfl⟩ := State.writeCursor_only_cursors ht
    exact .inl ⟨rfl, rfl, rfl, rfl, rfl, fun _ => ⟨rfl, rfl⟩⟩
  | block a n hi =>
    subst hi
    exact .inl ⟨rfl, rfl, rfl, rfl, rfl, fun hb => absurd rfl (hb a n)⟩
  | result _ _ _ _ _ hf => exact .inl ⟨rfl, rfl, rfl, rfl, (if_neg (by simp [hf])).symm, fun _ => ⟨rfl, rfl⟩⟩
  | read _ _ _ hi =>
    have hd := canDecodeError_of_isRead hi
    have hcp : 1 = i.length := (length_eq_one_of (.inl hd)).symm
    exact .inl ⟨hcp ▸ rfl, rfl, rfl, rfl, (if_pos (writesFail_of_canDecodeError hd)).symm, fun _ => ⟨rfl, rfl⟩⟩
  | wrote _ hi =>
    have hcp : 1 = i.length := (length_eq_one_of (.inr hi)).symm
    exact .inl ⟨hcp ▸ rfl, rfl, rfl, rfl, (if_neg (by simp [writesFail_eq_false_of_isWrite hi])).symm,
      fun _ => ⟨rfl, rfl⟩⟩

/-- A command that leaves a unit faulted that was not has taken a contract fault. -/
theorem Ends.faults (h : Ends i s t) (hs : s.status.fault = false) (ht : t.status.fault = true) : Faults i s t := by
  have hne : t.status.fault ≠ s.status.fault := by simp [hs, ht]
  obtain h | h | h | h := h.outcome
  · exact absurd h.fault_eq hne
  · exact absurd h.fault_eq hne
  · exact absurd h.fault_eq hne
  · exact h

/-- Settles O16: FAULT tells a fault from the other three outcomes, FAIL tells success from the other two, and DIV takes no
bytes of the wire. -/
theorem commandsEndInExactlyOneOfFourWays : Obligations.CommandsEndInExactlyOneOfFourWays := by
  intro i s hs
  obtain ⟨t, he, hends⟩ := exec_ends s i
  exact ⟨t, he, hends.outcome, not_and.2 Succeeds.not_failsQuietly, not_and.2 Succeeds.not_decodeErrs,
    not_and.2 fun h => not_faults_of_fault_eq hs h.fault_eq, not_and.2 FailsQuietly.not_decodeErrs,
    not_and.2 fun h => not_faults_of_fault_eq hs h.fault_eq, not_and.2 fun h => not_faults_of_fault_eq hs h.fault_eq⟩

/-- Settles O19: by the outcome of the command. -/
theorem failReportsTheLastCommandThatCanFail : Obligations.FailReportsTheLastCommandThatCanFail := by
  intro i s t hs h
  have he := exec_ends_of_next s h
  refine ⟨he.fail_eq, fun ht => (he.faults hs ht).fail_eq, fun hw ht => ⟨fun hfail => ?_, fun ho => ?_⟩⟩
  · obtain h | h | h | h := he.outcome
    · simp [h.fail_eq_false hw] at hfail
    · exact .inr h
    · exact .inl h
    · simp [h.fault_eq_true] at ht
  · exact ho.elim DecodeErrs.fail_eq_true FailsQuietly.fail_eq_true

end Sys2Proof.Machine
end

section
/-! PROOFS. How a unit comes to be faulted (60_exceptions.md R242) and what a faulted unit does (R243, R255, 20_memory.md
R60, 70_reset_and_hazards.md R270). -/

namespace Sys2Proof.Machine

open Sys2Proof.Claims

variable {s t : State} {w : Word} {rest : List HostAction}

/-- Everything a ready unit does with a command word: it is illegal, or word 0 of a command that runs, or waits in the latch
(R77, R73, R34). -/
theorem step_word_cases (hs : s.ready) (w : Word) (rest : List HostAction) :
    (∃ rest', step (s.sent w rest) = .next (contractFault 1#8 w { s with input := rest' })) ∨
    (∃ i rest', i.word0 = w ∧ step (s.sent w rest) = exec i { s with input := rest' }) ∨
    step (s.sent w rest) = .next { s with latch := some w, input := rest } := by
  cases hw : isTwoWord w with
  | false =>
    by_cases h : Illegal w
    · exact .inl ⟨_, step_oneWord_illegal hs hw h⟩
    · obtain ⟨i, hd⟩ := decodeFields_of_not_illegal h 0#32
      obtain ⟨-, h0, -⟩ := of_decodeFields_ok hd
      exact .inr (.inl ⟨i, _, h0, step_oneWord_ok hs hw hd⟩)
  | true =>
    by_cases hr : ∃ w1 rest', rest = .word w1 :: rest'
    · obtain ⟨w1, rest', rfl⟩ := hr
      by_cases h : Illegal w
      · exact .inl ⟨_, step_twoWords_illegal hs hw h⟩
      · obtain ⟨i, hd⟩ := decodeFields_of_not_illegal h w1
        obtain ⟨-, h0, -⟩ := of_decodeFields_ok hd
        exact .inr (.inl ⟨i, _, h0, step_twoWords_ok hs hw hd⟩)
    · exact .inr (.inr (step_latches s w rest hs hw fun w1 rest' e => hr ⟨w1, rest', e⟩))

/-- Settles O17: an illegal word is the ILLEGAL fault, a command that runs has faulted as R242 says, and a word in the latch
faults nothing. -/
theorem contractFaultsArePrecise : Obligations.ContractFaultsArePrecise := by
  intro s t w rest hs h ht
  obtain ⟨rest', e⟩ | ⟨i, rest', hw, e⟩ | e := step_word_cases hs w rest
  · obtain rfl := Host.Outcome.next.inj (h.symm.trans e)
    exact ⟨1#8, by decide, by decide, rfl⟩
  · obtain ⟨c, h1, h6, rfl⟩ := (exec_ends_of_next _ (e.symm.trans h)).faults hs.1 ht
    exact ⟨c, h1, h6, hw ▸ rfl⟩
  · obtain rfl := Host.Outcome.next.inj (h.symm.trans e)
    exact absurd (ht.symm.trans hs.1) nofun

/-- A run whose first step answers a next state goes on from there. -/
theorem run_of_step {M : Host.Core} {s s' : M.State} (h : M.step s = .next s') (n : Nat) :
    M.run (n + 1) s = M.run n s' := by
  rw [Host.Core.run, h]

/-- A halted unit discards any number of words (R243; log 6). -/
theorem run_halted (hf : s.status.fault = true) (ws : List Word) :
    Sys2Proof.core.run ws.length { s with input := ws.map HostAction.word } = .next { s with input := [] } := by
  induction ws with
  | nil => rfl
  | cons w ws ih =>
    have hstep := step_halted s w (ws.map HostAction.word) hf
    exact (run_of_step (M := Sys2Proof.core) hstep ws.length).trans ih

/-- Settles O9: the words by their number; the ports as in any idle unit; reset writes zeros to STATUS and empties the
latch. -/
theorem haltedUnitDiscardsWordsUntilReset : Obligations.HaltedUnitDiscardsWordsUntilReset := by
  intro s hf hl
  obtain ⟨hbyte, hreg, hcr⟩ := s.host_reads_of_idle hl
  exact ⟨run_halted hf, fun a b rest => step_memWrite s a b rest hl, hbyte, hreg, hcr,
    fun rest => ⟨_, step_reset s rest, ⟨rfl, rfl⟩, rfl⟩⟩

end Sys2Proof.Machine
end

section
/-! PROOFS. How far a decoder read moves POS (41_varint.md R130; 70_reset_and_hazards.md R277), and that ten bytes which all
continue are no varint (R133, R134). -/

namespace Sys2Proof.Machine

open Sys2Proof.Claims

variable {s t : State} {i : Instr}

/-- A read or NEXTF moves POS by at most ten bytes, never past END, and not at all if FAIL is 1 after it. -/
theorem Ends.pos_in_window (h : Ends i s t) (hi : isRead i = true ∨ ∃ rd, i = .nextf rd)
    (hs : s.pos.toNat ≤ s.endAddr.toNat) :
    s.pos.toNat ≤ t.pos.toNat ∧ t.pos.toNat ≤ s.pos.toNat + 10 ∧ t.pos.toNat ≤ s.endAddr.toNat ∧
      (t.status.fail = true → t.pos = s.pos) := by
  cases h with
  | fault | result | divZero | div | pass | error | noField | badField | wrote =>
    exact ⟨Nat.le_refl _, Nat.le_add_right _ _, hs, fun _ => rfl⟩
  | cursor _ _ _ hm | block _ _ hm | moved _ hm =>
    subst hm
    obtain hi | ⟨_, hi⟩ := hi <;> cases hi
  | read _ _ n _ _ _ h10 hn | field _ _ n _ _ h10 hn =>
    have hp := s.pos_add_toNat n hn
    exact ⟨(Nat.le_add_right _ n).trans_eq hp.symm, hp.trans_le (by omega), hp.trans_le hn, nofun⟩

/-! ## Scans of bytes that all continue -/

section
variable {get : Nat → Except DecodeError Byte} (hget : ∀ j < 10, ∀ b, get j = .ok b → 0x80 ≤ b.toNat)
include hget

theorem scanWide_error_of_continuing {k j : Nat} (hk : j + k ≤ 10) (l r : Word) :
    ∃ e, scanWide get k j l r = .error e := by
  induction k generalizing j l r with
  | zero => exact ⟨_, rfl⟩
  | succ k ih =>
    cases hj : get j with
    | error e => exact ⟨e, by rw [scanWide, hj]⟩
    | ok b =>
      rw [scanWide_more hj (hget j (by omega) b hj)]
      exact ih (by omega) _ _

theorem scanFifth_error_of_continuing (x : Word) : ∃ e, scanFifth get x = .error e := by
  cases h4 : get 4 with
  | error e => exact ⟨e, by rw [scanFifth, h4]⟩
  | ok c =>
    have hc := hget 4 (by decide) c h4
    by_cases hlong : 0xF0 ≤ c.toNat
    · cases hs : scanSignBytes get 4 5 with
      | error e => exact ⟨e, scanFifth_signBytes_error h4 hlong hs⟩
      | ok =>
        rw [scanFifth_signBytes_ok h4 hlong hs]
        cases h9 : get 9 with
        | error e => exact ⟨e, scanSignLast_stops h9⟩
        | ok b => exact ⟨_, scanSignLast_long h9 (hget 9 (by decide) b h9)⟩
    · exact ⟨_, scanFifth_bad h4 (by omega) (by omega)⟩

theorem scanHead_error_of_continuing {k j : Nat} (hk : j + k ≤ 10) (x : Word) :
    ∃ e, scanHead get k j x = .error e := by
  induction k generalizing j x with
  | zero => exact scanFifth_error_of_continuing hget x
  | succ k ih =>
    cases hj : get j with
    | error e => exact ⟨e, by rw [scanHead, hj]⟩
    | ok b =>
      rw [scanHead_more hj (hget j (by omega) b hj)]
      exact ih (by omega) _

end

/-- A varint read over ten bytes that all continue ends as its scan does. -/
theorem exec_varintRead_of_continuing (hi : isVarintRead i = true)
    (hc : ∀ k < 10, 0x80 ≤ (s.byte (s.pos.toNat + k)).toNat) : ∃ e, exec i s = .next (s.raiseDecodeError e) := by
  have hget : ∀ j < 10, ∀ b, s.decByte j = .ok b → 0x80 ≤ b.toNat := fun j hj b hb =>
    (s.decByte_ok hb).2 ▸ hc j hj
  obtain ⟨e32, h32⟩ : ∃ e, varint32Scan s.decByte = .error e := scanHead_error_of_continuing hget (by decide) _
  obtain ⟨e64, h64⟩ : ∃ e, varint64Scan s.decByte = .error e := scanWide_error_of_continuing hget (by decide) _ _
  cases i
  case rvu32 rd | rvs32 rd | rvz32 rd => exact ⟨e32, congrArg _ (s.readVarint32_of_error rd h32)⟩
  case rv64 rd | rvz64 rd => exact ⟨e64, congrArg _ (s.readVarint64_of_error rd h64)⟩
  all_goals cases hi

theorem isRead_of_isVarintRead (h : isVarintRead i = true) : isRead i = true := by
  unfold isVarintRead at h
  split at h
  case h_6 => cases h
  all_goals rfl

/-- Settles O22: by how the command ends, and for ten bytes that all continue by the error of the scan. -/
theorem readsTakeAtMostTenBytesInTheWindow : Obligations.ReadsTakeAtMostTenBytesInTheWindow := by
  intro i s hi hs
  obtain ⟨t, he, hends⟩ := exec_ends s i
  obtain ⟨hge, h10, hend, hfail⟩ := hends.pos_in_window hi hs
  refine ⟨t, he, hge, h10, hend, hfail, fun hv hc => ?_⟩
  obtain ⟨e, herr⟩ := exec_varintRead_of_continuing hv hc
  obtain rfl := Host.Outcome.next.inj (he.symm.trans herr)
  have hd := canDecodeError_of_isRead (isRead_of_isVarintRead hv)
  exact ⟨rfl, decodeErrs_raiseDecodeError e hd fun rd hn => by simp [hn, isVarintRead] at hv⟩

end Sys2Proof.Machine
end

section
/-! PROOFS. Reset (70_reset_and_hazards.md R270) gives the values of 10_state.md R38. -/

namespace Sys2Proof.Machine

/-- Settles O10: the values are those that `State.resetUnit` writes out. -/
theorem resetClearsAllButMemory : Obligations.ResetClearsAllButMemory := by
  refine fun s rest => ⟨_, step_reset s rest, fun r => ?_, Status.word_zero, rfl, rfl, rfl, rfl, rfl, rfl, rfl, rfl,
    fun _ => rfl, rfl, ⟨rfl, rfl⟩, rfl⟩
  simp

end Sys2Proof.Machine
end
